-- ==== Sys2Proof/Word.lean ====
section
/-! DEFINITION. The one word type of the block's bus: a byte (00_scope.md R11). Every access the block makes or
gates is one byte (20_memory.md R65). -/

namespace Sys2Proof

/-- A byte, 0 to 255 (00_scope.md R11). -/
abbrev Byte := BitVec 8

end Sys2Proof
end

