-- ==== Sys2Proof/Config.lean ====
section
/-! DEFINITION. The configuration record cfg of 00_scope.md R7, the names its fields use, and the free values.

cfg is fixed at load time and no operation changes it. It stands in State (log 1), so that every claim about every
state is a claim about every cartridge. Where R7 has a function, the record holds plain data that says the same:
power_on is one byte per field name, low_half_map is one of the two named instances or a table of the window,
debounce_ok is the default instance or the uninterpreted predicate.

The free values are opaque constants without a body: nothing in Lean can evaluate them or prove a value of them. -/

namespace Sys2Proof

/-- The sub-variant tag (00_scope.md R2). -/
inductive Variant where
  | mmc3
  | mmc6
deriving DecidableEq, Repr

/-- The revision-policy tag (00_scope.md R2). -/
inductive Revision where
  | revB
  | revA
deriving DecidableEq, Repr

/-- The four permissions (00_scope.md R14). -/
inductive Perm where
  | none
  | r
  | w
  | rw
deriving DecidableEq, Repr

/-- A half of the low memory window, MMC6 (20_memory.md R62). -/
inductive Half where
  | h0
  | h1
deriving DecidableEq, Repr

/-- The physical backing stores (00_scope.md R13, 20_memory.md R50). -/
inductive Space where
  | prg
  | chr
  | wram
deriving DecidableEq, Repr

/-- The mirroring output (41_register_writes.md R164). -/
inductive Mirroring where
  | horizontal
  | vertical
  | fourScreen
deriving DecidableEq, Repr

/-- cfg.low_half_map (20_memory.md R62): the two named instances, or any function on the window written as a table whose
entry number k is what the address LOW_BASE + k maps to (absent entries and `none` are "outside"). DESIGN CHOICE, log 13. -/
inductive LowHalfMap where
  | halfMmc6
  | halfLiteral
  | table (entries : List (Option (Half × Nat)))
deriving DecidableEq, Repr

/-- cfg.debounce_ok (40_edge_watcher.md R124): the default instance DEB_GAP (R126), or the open parameter itself, about
which nothing is known (Config.debounceOk below). DESIGN CHOICE, log 7. -/
inductive Debounce where
  | gap
  | uninterpreted
deriving DecidableEq, Repr

/-- cfg.power_on, a function from field name to byte (10_state.md R37), as one byte per field name of R38. -/
structure PowerOn where
  bank0 : Byte
  bank1 : Byte
  bank2 : Byte
  bank3 : Byte
  bank4 : Byte
  bank5 : Byte
  bank6 : Byte
  bank7 : Byte
  sel : Byte
  prgMode : Byte
  chrMode : Byte
  mirr : Byte
  wramEn : Byte
  wramWp : Byte
  h0r : Byte
  h0w : Byte
  h1r : Byte
  h1w : Byte
  irqLatch : Byte
  irqCount : Byte
  irqReload : Byte
  irqEn : Byte
  ewLast : Byte
  ewStamp : Byte
deriving DecidableEq, Repr

/-- The power-on function that answers one byte for every field; `PowerOn.const 0` is the spec's instance ZERO
(95_test_vectors.md, conventions). -/
def PowerOn.const (b : Byte) : PowerOn :=
  { bank0 := b, bank1 := b, bank2 := b, bank3 := b, bank4 := b, bank5 := b, bank6 := b, bank7 := b, sel := b,
    prgMode := b, chrMode := b, mirr := b, wramEn := b, wramWp := b, h0r := b, h0w := b, h1r := b, h1w := b,
    irqLatch := b, irqCount := b, irqReload := b, irqEn := b, ewLast := b, ewStamp := b }

/-- The configuration record (00_scope.md R7). `frameCycles` is a positive number or none; `Config.wf` says so. -/
structure Config where
  variant : Variant
  revision : Revision
  prgPages : Nat
  chrPages : Nat
  wramSize : Nat
  fourScreen : Bool
  /-- Consumed according to the source, read by no rule (43_memory_access.md R208). -/
  hasBattery : Bool
  powerOn : PowerOn
  chrPerm : Perm
  debounce : Debounce
  debounceCycles : Nat
  frameCycles : Option Nat
  lowHalfMap : LowHalfMap
deriving DecidableEq, Repr

/-- FRAME_CYCLES is "positive natural number or none" (00_scope.md R7). -/
def Config.wf (c : Config) : Bool := c.frameCycles != some 0

/-- The range of a frame position under cfg: below FRAME_CYCLES when that is a number (10_state.md R34,
30_encoding.md R102). -/
def Config.inFrame (c : Config) (n : Nat) : Bool :=
  match c.frameCycles with
  | some f => decide (n < f)
  | none => true

/-- The cartridge of State.reset. variant, revision, chrPerm, debounce and lowHalfMap are the spec's defaults
(00_scope.md R2, 92_eei_decisions.md D9, D11, D7). DESIGN CHOICE, unsafe: the page counts, the working-memory size and
the two flags, which are per cartridge, the two cycle counts, which are open, and the power-on bytes (logs 1 and 2). -/
def Config.default : Config :=
  { variant := .mmc3, revision := .revB, prgPages := 8, chrPages := 8, wramSize := 0x2000, fourScreen := false,
    hasBattery := false, powerOn := PowerOn.const 0, chrPerm := .r, debounce := .gap, debounceCycles := 10,
    frameCycles := some 89342, lowHalfMap := .halfMmc6 }

/-- What QUERY reports (44_system_ops.md R228): every field of 10_state.md R41, irq_line, mirroring(), the twelve window
page numbers and the low-window permission (MMC3) or permissions (MMC6). -/
inductive QueryItem where
  | bank (i : Fin 8)
  | sel
  | prgMode
  | chrMode
  | mirr
  | wramEn
  | wramWp
  | h0r
  | h0w
  | h1r
  | h1w
  | irqCount
  | irqLatch
  | irqEn
  | irqReload
  | ewLast
  | ewStamp
  | irqLine
  | mirroring
  | chrPage (i : Fin 8)
  | prgPage (i : Fin 4)
  | lowPerm
  | lowPermHalf (h : Half)
deriving DecidableEq, Repr

/-- FREE VALUE (log 6). cfg.open_bus: the byte of the n-th read that no permission allows, "a draw of one byte per read,
unconstrained" (20_memory.md R60, 92_eei_decisions.md D10). -/
opaque Config.openBus : Nat → Byte

/-- FREE VALUE (log 7). cfg.debounce_ok, the open parameter: "a total boolean function of (st.ew_last, st.ew_stamp, b, c)
and of nothing else" (40_edge_watcher.md R124). -/
opaque Config.debounceOk : Bool → Nat → Bool → Nat → Bool

/-- FREE VALUE (log 8). elapsed(s, c) where FRAME_CYCLES is none and c < s: R126 "requires c >= s" there and states no
value otherwise (40_edge_watcher.md R126). -/
opaque Config.elapsedBackwards : Nat → Nat → Nat

/-- FREE VALUE (log 17). The address-label of a tuple of QUERY: the document gives none (44_system_ops.md R228). -/
opaque Config.queryLabel : QueryItem → String

/-- FREE VALUE (log 17). The value-kind of a tuple of QUERY: the document gives none (44_system_ops.md R228). -/
opaque Config.queryKind : QueryItem → String

end Sys2Proof
end

