-- ==== Sys2Proof/Syntax.lean ====
section
/-! DEFINITION. The instructions of the block: the operations its host presents to it (00_scope.md R16), one constructor
for each of the 19 rows of spec/opcode_table.json (30_encoding.md R109). -/

namespace Sys2Proof

/-- The operations. `value` is the byte of a register write or a store, `address` a logical address (30_encoding.md
R103) or, in notify, a video address of which only bit 12 is read (R102), `frameCycle` the position in the video frame,
`blob` an ordered byte sequence (R104). Addresses and cycles are "unsigned" of no stated width: naturals (20_memory.md
R51, 92_eei_decisions.md D28, log 28). -/
inductive Instr where
  /-- SELECT, 41_register_writes.md R150. -/
  | select (value : Byte)
  /-- DATA, 41_register_writes.md R151. -/
  | data (value : Byte)
  /-- MIRROR, 41_register_writes.md R152. -/
  | mirror (value : Byte)
  /-- WRAMCTL.MMC3, 41_register_writes.md R153. -/
  | wramctlMmc3 (value : Byte)
  /-- WRAMCTL.MMC6, 41_register_writes.md R154. -/
  | wramctlMmc6 (value : Byte)
  /-- IRQLATCH, 41_register_writes.md R155. -/
  | irqlatch (value : Byte)
  /-- IRQRELOAD, 41_register_writes.md R156; the byte is carried and ignored (30_encoding.md R101). -/
  | irqreload (value : Byte)
  /-- IRQDIS, 41_register_writes.md R157; the byte is carried and ignored. -/
  | irqdis (value : Byte)
  /-- IRQEN, 41_register_writes.md R158; the byte is carried and ignored. -/
  | irqen (value : Byte)
  /-- NOTIFY, 40_edge_watcher.md R121. -/
  | notify (address frameCycle : Nat)
  /-- WRAMRD, 43_memory_access.md R201. -/
  | wramrd (address : Nat)
  /-- WRAMWR, 43_memory_access.md R202. -/
  | wramwr (address : Nat) (value : Byte)
  /-- PRGRD, 43_memory_access.md R204. -/
  | prgrd (address : Nat)
  /-- CHRRD, 43_memory_access.md R205. -/
  | chrrd (address : Nat)
  /-- CHRWR, 43_memory_access.md R206. -/
  | chrwr (address : Nat) (value : Byte)
  /-- RESET, 44_system_ops.md R220. -/
  | reset
  /-- SNAPSHOT, 44_system_ops.md R222. -/
  | snapshot
  /-- RESTORE, 44_system_ops.md R225 and R226. -/
  | restore (blob : List Byte)
  /-- QUERY, 44_system_ops.md R228. -/
  | query
deriving DecidableEq, Repr

end Sys2Proof
end

