-- ==== Sys2Proof/Machine/Event.lean ====
section
/-! DEFINITION. What the host presents to the block, before decoding: an event in one of the five formats of
30_encoding.md R90. A register write is the 24-bit word of R91; the other formats name the entry point and its operands,
"because they have no bit pattern in any source" (R109). -/

namespace Sys2Proof.Machine

/-- The ports of the MEMR format (30_encoding.md R90). -/
inductive ReadPort where
  | wram
  | prg
  | chr
deriving DecidableEq, Repr

/-- The ports of the MEMW format (30_encoding.md R90); PRG is written by no operation (43_memory_access.md R207). -/
inductive WritePort where
  | wram
  | chr
deriving DecidableEq, Repr

/-- The entry points of the SYS format (30_encoding.md R104). -/
inductive SysCall where
  | reset
  | snapshot
  | restore (blob : List Byte)
  | query
deriving DecidableEq, Repr

/-- One event of the host. -/
inductive Event where
  /-- REGW: writeRegister, as the word {address[15:0], value[7:0]} (30_encoding.md R91). -/
  | regw (word : BitVec 24)
  /-- NOTE: notifyAddressChange (30_encoding.md R102). -/
  | note (address frameCycle : Nat)
  /-- MEMR: a read through the low window, a PRG window or a CHR window (30_encoding.md R103). -/
  | memr (port : ReadPort) (address : Nat)
  /-- MEMW: a write through the low window or a CHR window (30_encoding.md R103). -/
  | memw (port : WritePort) (address : Nat) (value : Byte)
  /-- SYS (30_encoding.md R104). -/
  | sys (call : SysCall)
deriving DecidableEq, Repr

/-- The word {address[15:0], value[7:0]} (30_encoding.md R91). -/
def packWord (address : BitVec 16) (value : Byte) : BitVec 24 := (address ++ value : BitVec (16 + 8))

/-- The event `W aaaa vv` of 30_encoding.md R107: the word of R91 from its address and its byte. -/
def Event.write (address : BitVec 16) (value : Byte) : Event := .regw (packWord address value)

/-- The five formats (30_encoding.md R90). -/
inductive Format where
  | regw
  | note
  | memr
  | memw
  | sys
deriving DecidableEq, Repr

/-- The format of an event. -/
def Event.format : Event → Format
  | .regw _ => .regw
  | .note _ _ => .note
  | .memr _ _ => .memr
  | .memw _ _ _ => .memw
  | .sys _ => .sys

/-- The host's assumption about an event on a cartridge: NOTIFY's frame position lies inside the frame (30_encoding.md
R102, 92_eei_decisions.md D28). -/
def Event.inFrame (c : Config) : Event → Bool
  | .note _ frameCycle => c.inFrame frameCycle
  | .regw _ => true
  | .memr _ _ => true
  | .memw _ _ _ => true
  | .sys _ => true

end Sys2Proof.Machine
end

