-- ==== Sys2Proof/Decode.lean ====
section
/-! DEFINITION. Decoding an event to an instruction, total, rejecting by name, and encoding an instruction as an event.

A register write is decoded by its masked address (30_encoding.md R93, R94); the mask and the eight patterns are the
spec's adopted numbers (92_eei_decisions.md D3), PRESUMED, log 10. The word of WRAMCTL has two rows in the opcode table;
cfg.variant selects which (30_encoding.md R106). The other four formats name their entry point. -/

namespace Sys2Proof

open Machine

/-- REG_MASK: the decoder looks at A15, A14, A13 and A0 (30_encoding.md R93). -/
def regMask : BitVec 16 := 0xE001#16

/-- PAT_SELECT (30_encoding.md R94). -/
def patSelect : BitVec 16 := 0x8000#16
/-- The pattern of "bank data" (30_encoding.md R94). -/
def patData : BitVec 16 := 0x8001#16
/-- The pattern of "mirroring/extra" (30_encoding.md R94). -/
def patMirror : BitVec 16 := 0xA000#16
/-- The pattern of "wram control" (30_encoding.md R94). -/
def patWramctl : BitVec 16 := 0xA001#16
/-- The pattern of "irq reload value" (30_encoding.md R94). -/
def patIrqlatch : BitVec 16 := 0xC000#16
/-- The pattern of "irq reload strobe" (30_encoding.md R94). -/
def patIrqreload : BitVec 16 := 0xC001#16
/-- The pattern of "irq disable" (30_encoding.md R94). -/
def patIrqdis : BitVec 16 := 0xE000#16
/-- PAT_IRQ_ENABLE (30_encoding.md R94). -/
def patIrqen : BitVec 16 := 0xE001#16

/-- Why an event is no instruction. -/
inductive DecodeError where
  /-- A register write whose masked address matches none of the eight patterns (30_encoding.md R105). -/
  | noPattern (pattern : BitVec 16)
deriving DecidableEq, Repr

/-- The address of a register-write word: bits 23 to 8 (30_encoding.md R91). -/
def wordAddress (word : BitVec 24) : BitVec 16 := word.extractLsb' 8 16

/-- The byte of a register-write word: bits 7 to 0 (30_encoding.md R91). -/
def wordValue (word : BitVec 24) : Byte := word.extractLsb' 0 8

/-- The dispatch table keyed by the masked address pattern (30_encoding.md R94); the WRAMCTL row by the cartridge's variant
(R106). -/
def decodePattern (v : Variant) (pattern : BitVec 16) (value : Byte) : Except DecodeError Instr :=
  if pattern = patSelect then .ok (.select value)
  else if pattern = patData then .ok (.data value)
  else if pattern = patMirror then .ok (.mirror value)
  else if pattern = patWramctl then
    match v with
    | .mmc3 => .ok (.wramctlMmc3 value)
    | .mmc6 => .ok (.wramctlMmc6 value)
  else if pattern = patIrqlatch then .ok (.irqlatch value)
  else if pattern = patIrqreload then .ok (.irqreload value)
  else if pattern = patIrqdis then .ok (.irqdis value)
  else if pattern = patIrqen then .ok (.irqen value)
  else .error (.noPattern pattern)

/-- writeRegister's decoding: the address is reduced to a pattern by the mask, lines A12 to A1 are ignored
(30_encoding.md R93, 41_register_writes.md R140). -/
def decodeWord (v : Variant) (word : BitVec 24) : Except DecodeError Instr :=
  decodePattern v (wordAddress word &&& regMask) (wordValue word)

/-- The decoder, on every event. -/
def decode (v : Variant) : Event → Except DecodeError Instr
  | .regw word => decodeWord v word
  | .note address frameCycle => .ok (.notify address frameCycle)
  | .memr .wram address => .ok (.wramrd address)
  | .memr .prg address => .ok (.prgrd address)
  | .memr .chr address => .ok (.chrrd address)
  | .memw .wram address value => .ok (.wramwr address value)
  | .memw .chr address value => .ok (.chrwr address value)
  | .sys .reset => .ok .reset
  | .sys .snapshot => .ok .snapshot
  | .sys (.restore blob) => .ok (.restore blob)
  | .sys .query => .ok .query

/-- The encoder: a register write at its pattern's own address, the ignored lines A12 to A1 being 0 (30_encoding.md R91,
R94, log 27); the other formats as R90 lists them. -/
def encode : Instr → Event
  | .select value => .write patSelect value
  | .data value => .write patData value
  | .mirror value => .write patMirror value
  | .wramctlMmc3 value => .write patWramctl value
  | .wramctlMmc6 value => .write patWramctl value
  | .irqlatch value => .write patIrqlatch value
  | .irqreload value => .write patIrqreload value
  | .irqdis value => .write patIrqdis value
  | .irqen value => .write patIrqen value
  | .notify address frameCycle => .note address frameCycle
  | .wramrd address => .memr .wram address
  | .wramwr address value => .memw .wram address value
  | .prgrd address => .memr .prg address
  | .chrrd address => .memr .chr address
  | .chrwr address value => .memw .chr address value
  | .reset => .sys .reset
  | .snapshot => .sys .snapshot
  | .restore blob => .sys (.restore blob)
  | .query => .sys .query

/-- The instruction the decoder reads from an opcode-table word of nbits bits, on the cartridge of State.reset. The
table's words are the 24-bit register writes of 30_encoding.md R91; the ten event rows have no bits. The two WRAMCTL rows
are one word, which reads as the row of the default variant MMC3 here (log 12). -/
def decodeTableWord (nbits w : Nat) : Option Instr :=
  if nbits = 24 ∧ w < 2 ^ 24 then
    match decode Config.default.variant (.regw (BitVec.ofNat 24 w)) with
    | .ok i => some i
    | .error _ => none
  else none

end Sys2Proof
end

