-- ==== Sys2Proof/Machine/Memory.lean ====
section
/-! DEFINITION. One backing store as plain data: the bytes that differ from what an unlisted offset reads as, by strictly
rising offset (00_scope.md R13). DESIGN CHOICE, unsafe, log 3: an unlisted byte reads as 0x00; the spec says a store's
initial contents are "any value" (93_implementation_defined.md U12), which a claim about every state covers, since a
state may list any bytes. -/

namespace Sys2Proof.Machine

/-- What an offset that is not listed reads as (log 3). -/
def unlistedByte : Byte := 0x00#8

/-- A backing store: (offset, byte) cells in canonical form. -/
abbrev Memory := List Host.Cell

/-- The canonical form: offsets strictly rising, no cell equal to what an unlisted offset reads as. -/
abbrev Memory.wf (m : Memory) : Prop :=
  List.Pairwise (fun c d => c.1 < d.1) m ∧ ∀ c ∈ m, c.2 ≠ unlistedByte

/-- Every listed offset lies inside a store of `size` bytes (20_memory.md R51). -/
abbrev Memory.within (size : Nat) (m : Memory) : Prop := ∀ c ∈ m, c.1 < size

/-- MemRead(space, paddr, 1) on one store (00_scope.md R13). -/
def Memory.read : Memory → Nat → Byte
  | [], _ => unlistedByte
  | (b, w) :: rest, a => if a = b then w else Memory.read rest a

/-- A cell in front of a store, left out when it says what an unlisted offset says anyway. -/
def Memory.cons (a : Nat) (v : Byte) (m : Memory) : Memory :=
  if v = unlistedByte then m else (a, v) :: m

/-- MemWrite(space, paddr, 1, v) on one store (00_scope.md R13); keeps the canonical form. -/
def Memory.write : Memory → Nat → Byte → Memory
  | [], a, v => Memory.cons a v []
  | (b, w) :: rest, a, v =>
    if a < b then Memory.cons a v ((b, w) :: rest)
    else if a = b then Memory.cons a v rest
    else (b, w) :: Memory.write rest a v

end Sys2Proof.Machine
end

