-- ==== Sys2Proof/Machine/AddressMap.lean ====
section
/-! DEFINITION. The address map of 20_memory.md R51 to R53: the window bases and sizes, and the window index and offset of
an address. The numbers are the spec's adopted defaults (00_scope.md R9, 92_eei_decisions.md D7), which the spec marks
[from general knowledge, not in source] except the 1 KB CHR window: PRESUMED, log 10. -/

namespace Sys2Proof.Machine

/-- PRG_BASE, the first CPU address of a PRG window (00_scope.md R9). -/
def prgBase : Nat := 0x8000
/-- PRG_PAGE, the size of a PRG window and page, 8 KB (20_memory.md R51). -/
def prgPage : Nat := 0x2000
/-- CHR_BASE, the first video address of a CHR window (00_scope.md R9). -/
def chrBase : Nat := 0x0000
/-- CHR_PAGE, the size of a CHR window and page, 1 KB (20_memory.md R51). -/
def chrPage : Nat := 0x0400
/-- LOW_BASE, the first CPU address of the low memory window (00_scope.md R9). -/
def lowBase : Nat := 0x6000
/-- LOW_SIZE, the size of the low memory window (00_scope.md R9). -/
def lowSize : Nat := 0x2000

/-- `a emod n` for an integer a and n > 0, the Euclidean remainder (00_scope.md R11). -/
def emod (a : Int) (n : Nat) : Nat := (a % (n : Int)).toNat

/-- The four PRG windows hold this CPU address (20_memory.md R52). -/
def inPrg (a : Nat) : Bool := decide (prgBase ≤ a ∧ a < prgBase + 4 * prgPage)

/-- The eight CHR windows hold this video address (20_memory.md R52). -/
def inChr (v : Nat) : Bool := decide (chrBase ≤ v ∧ v < chrBase + 8 * chrPage)

/-- The low memory window holds this CPU address (20_memory.md R61). -/
def inLow (a : Nat) : Bool := decide (lowBase ≤ a ∧ a < lowBase + lowSize)

/-- prg_window(a) (20_memory.md R52); 0 to 3 for an address of the windows. -/
def prgWindow (a : Nat) : Fin 4 := Fin.ofNat 4 ((a - prgBase) / prgPage)

/-- prg_offset(a) (20_memory.md R52). -/
def prgOffset (a : Nat) : Nat := (a - prgBase) % prgPage

/-- chr_window(v) (20_memory.md R52); 0 to 7 for an address of the windows. -/
def chrWindow (v : Nat) : Fin 8 := Fin.ofNat 8 ((v - chrBase) / chrPage)

/-- chr_offset(v) (20_memory.md R52). -/
def chrOffset (v : Nat) : Nat := (v - chrBase) % chrPage

/-- The number of bytes of each backing store (20_memory.md R51). -/
def spaceSize (c : Config) : Space → Nat
  | .prg => c.prgPages * prgPage
  | .chr => c.chrPages * chrPage
  | .wram => c.wramSize

end Sys2Proof.Machine
end

