-- ==== Sys2Proof/Machine/Regs.lean ====
section
/-! DEFINITION. The registers: "every field in §3", the seventeen fields the snapshot covers (10_state.md R41), in the
groups MapperState, IrqCounterState and EdgeWatcherState (R20). -/

namespace Sys2Proof.Machine

/-- The seventeen fields of 10_state.md R41. -/
structure Regs where
  /-- bank[0..7], R22. -/
  bank : Vector Byte 8
  /-- st.sel, R25. -/
  sel : BitVec 3
  /-- st.prg_mode, R26. -/
  prgMode : Bool
  /-- st.chr_mode, R26. -/
  chrMode : Bool
  /-- st.mirr, R27. -/
  mirr : Bool
  /-- st.wram_en, R28. -/
  wramEn : Bool
  /-- st.wram_wp, R28. -/
  wramWp : Bool
  /-- st.h0_r, R29. -/
  h0r : Bool
  /-- st.h0_w, R29. -/
  h0w : Bool
  /-- st.h1_r, R29. -/
  h1r : Bool
  /-- st.h1_w, R29. -/
  h1w : Bool
  /-- st.irq_latch, R30. -/
  irqLatch : Byte
  /-- st.irq_count, R31. -/
  irqCount : Byte
  /-- st.irq_reload, R32. -/
  irqReload : Bool
  /-- st.irq_en, R33. -/
  irqEn : Bool
  /-- st.ew_last, R34. -/
  ewLast : Bool
  /-- st.ew_stamp, R34. -/
  ewStamp : Nat
deriving DecidableEq, Repr

/-- The invariants of 10_state.md on the registers: bit 0 of bank[0] and of bank[1] is 0 (R23), ew_stamp lies inside the
frame (R34). RESTORE refuses a blob of registers that break them (44_system_ops.md R226). -/
def Regs.valid (c : Config) (r : Regs) : Bool :=
  !r.bank[0].getLsbD 0 && !r.bank[1].getLsbD 0 && c.inFrame r.ewStamp

end Sys2Proof.Machine
end

