-- ==== Sys2Proof/Machine/PowerOn.lean ====
section
/-! DEFINITION. The reset value of every register field, from the power-on bytes, with the masks of 10_state.md R38. -/

namespace Sys2Proof.Machine

/-- `v & 0xFE`: bit 0 forced to 0 (00_scope.md R10). -/
def clearBit0 (v : Byte) : Byte := v &&& 0xFE#8

/-- p(ew_stamp), reduced emod FRAME_CYCLES when that is a number (10_state.md R38). -/
def powerOnStamp (c : Config) : Nat :=
  match c.frameCycles with
  | some f => emod c.powerOn.ewStamp.toNat f
  | none => c.powerOn.ewStamp.toNat

/-- The registers right after RESET (10_state.md R38, R40). -/
def powerOnRegs (c : Config) : Regs :=
  let p := c.powerOn
  { bank := #v[clearBit0 p.bank0, clearBit0 p.bank1, p.bank2, p.bank3, p.bank4, p.bank5, p.bank6, p.bank7]
    sel := p.sel.extractLsb' 0 3
    prgMode := p.prgMode.getLsbD 0
    chrMode := p.chrMode.getLsbD 0
    mirr := p.mirr.getLsbD 0
    wramEn := p.wramEn.getLsbD 0
    wramWp := p.wramWp.getLsbD 0
    h0r := p.h0r.getLsbD 0
    h0w := p.h0w.getLsbD 0
    h1r := p.h1r.getLsbD 0
    h1w := p.h1w.getLsbD 0
    irqLatch := p.irqLatch
    irqCount := p.irqCount
    irqReload := p.irqReload.getLsbD 0
    irqEn := p.irqEn.getLsbD 0
    ewLast := p.ewLast.getLsbD 0
    ewStamp := powerOnStamp c }

end Sys2Proof.Machine
end

