-- ==== Sys2Proof/Machine/Report.lean ====
section
/-! DEFINITION. What an operation returns to the host (00_scope.md R15). -/

namespace Sys2Proof.Machine

/-- The current value of a tuple of QUERY (44_system_ops.md R228). -/
inductive QueryValue where
  | bit (b : Bool)
  | index (i : BitVec 3)
  | byte (b : Byte)
  | number (n : Nat)
  | mirroring (m : Mirroring)
  /-- A window's page number, none when it is absent (20_memory.md R55). -/
  | page (p : Option Nat)
  | perm (p : Perm)
deriving DecidableEq, Repr

/-- One tuple of QUERY: "(address-label, human-readable name, current value, value-kind)" (44_system_ops.md R228). The name
is the item named; label and kind are free values (log 17). -/
structure QueryRow where
  label : String
  name : QueryItem
  value : QueryValue
  kind : String
deriving DecidableEq, Repr

/-- What the last operation returned (log 5). -/
inductive Returned where
  /-- The operation returns nothing ("-> void"). -/
  | void
  /-- The byte of a read. -/
  | byte (b : Byte)
  /-- The blob of SNAPSHOT (44_system_ops.md R222). -/
  | blob (bytes : List Byte)
  /-- The list of QUERY (44_system_ops.md R228). -/
  | table (rows : List QueryRow)
  /-- `raise RestoreFailure(blob)`, told to the caller of RESTORE (44_system_ops.md R226, 60_exceptions.md R256). -/
  | restoreFailure (blob : List Byte)
deriving DecidableEq, Repr

end Sys2Proof.Machine
end

