-- ==== Sys2Proof/Machine/State.lean ====
section
/-! DEFINITION. The machine's state, its state right after reset, and the reasons a step can stop. -/

namespace Sys2Proof.Machine

/-- Why the machine stops. The block itself has no fault (60_exceptions.md R240, 20_memory.md R64). -/
inductive Fault where
  /-- Raised by `step` alone, when the host has issued no operation: "a run ends where the host's sequence ends"
  (00_scope.md R16). Safe: the model stops where the hardware waits for its host. -/
  | noOperation
deriving DecidableEq, Repr

/-- Why an instruction has no meaning. -/
inductive Refusal where
  /-- Raised by an arm of `exec` whose instruction has no meaning yet; no arm of this model does. Safe. -/
  | notModelled (mnemonic : String)
deriving DecidableEq, Repr

/-- Everything the spec gives the machine, and the three fields of the model's own. -/
structure State where
  /-- cfg, the cartridge's configuration (00_scope.md R7); no step changes it (log 1). -/
  cfg : Config
  /-- The seventeen register fields (10_state.md R41). -/
  regs : Regs
  /-- st.irq_line, the level of the interrupt request (10_state.md R35). -/
  irqLine : Bool
  /-- The backing store PRG (20_memory.md R50). -/
  prg : Memory
  /-- The backing store CHR (20_memory.md R50). -/
  chr : Memory
  /-- The backing store WRAM (20_memory.md R50). -/
  wram : Memory
  /-- The model's own: how many free bytes have been drawn (log 6). -/
  draws : Nat
  /-- The model's own: the operations the host has issued and the block has not run yet, oldest first (log 4). -/
  input : List Event
  /-- The model's own: what the last operation returned (log 5). -/
  returned : Returned
deriving DecidableEq, Repr

/-- The machine right after reset, on the cartridge `c`, with the backing stores as loaded (10_state.md R38): every field
its power-on byte, masked, and the interrupt line deasserted. -/
def State.afterReset (c : Config) (prg chr wram : Memory) : State :=
  { cfg := c, regs := powerOnRegs c, irqLine := false, prg := prg, chr := chr, wram := wram, draws := 0, input := [],
    returned := .void }

/-- The machine right after reset, on the default cartridge, with nothing listed in a store (logs 1, 2, 3). -/
def State.reset : State := State.afterReset Config.default [] [] []

end Sys2Proof.Machine
end

