-- ==== Sys2Proof/Machine/Flags.lean ====
section
/-! DEFINITION. The flag computations: the IRQ counter's next value and its assertion condition under both revision
policies (42_irq_counter.md R182, R184), the edge classification and the debounce condition (40_edge_watcher.md R122 to
R126). -/

namespace Sys2Proof.Machine

/-- Step 2 of clock_irq: reload when the counter is 0 or a reload is pending, else decrement; both tests on the values
before the update (42_irq_counter.md R182). -/
def nextCount (prev : Byte) (pending : Bool) (latch : Byte) : Byte :=
  if prev = 0#8 ∨ pending = true then latch else prev - 1#8

/-- Step 3 of clock_irq: whether the interrupt is asserted, from the count after the update, irq_en, and the counter and
pending flag before it (42_irq_counter.md R181, R184, log 25). -/
def fires (rev : Revision) (irqEn : Bool) (prev : Byte) (pending : Bool) (count : Byte) : Bool :=
  match rev with
  | .revB => decide (count = 0#8) && irqEn
  | .revA => decide (count = 0#8) && irqEn && (!decide (prev = 0#8) || pending)

/-- The edge watcher's classification of one notification (40_edge_watcher.md R123). -/
inductive Edge where
  | rise
  | fall
  | none
deriving DecidableEq, Repr

/-- The watched bit, bit 12 of the address (40_edge_watcher.md R122). -/
def watchedBit (address : Nat) : Bool := address.testBit 12

/-- elapsed(s, c) (40_edge_watcher.md R126). Where FRAME_CYCLES is none and c < s, which R126 excludes, the value is free
(log 8). -/
def elapsed (cfg : Config) (s c : Nat) : Nat :=
  match cfg.frameCycles with
  | some f => emod ((c : Int) - (s : Int)) f
  | none => if s ≤ c then c - s else Config.elapsedBackwards s c

/-- DEB_GAP (40_edge_watcher.md R126). -/
def debGap (cfg : Config) (stamp c : Nat) : Bool := decide (cfg.debounceCycles ≤ elapsed cfg stamp c)

/-- cfg.debounce_ok(last, stamp, b, c) (40_edge_watcher.md R124): the default instance, or the open predicate. -/
def debounceOk (cfg : Config) (last : Bool) (stamp : Nat) (b : Bool) (c : Nat) : Bool :=
  match cfg.debounce with
  | .gap => debGap cfg stamp c
  | .uninterpreted => Config.debounceOk last stamp b c

/-- Whether observe accepts this notification as a transition (40_edge_watcher.md R123). -/
def accepts (cfg : Config) (r : Regs) (address c : Nat) : Bool :=
  (watchedBit address != r.ewLast) && debounceOk cfg r.ewLast r.ewStamp (watchedBit address) c

/-- What observe returns (40_edge_watcher.md R123). -/
def classify (cfg : Config) (r : Regs) (address c : Nat) : Edge :=
  if accepts cfg r address c then (if watchedBit address then .rise else .fall) else .none

end Sys2Proof.Machine
end

