-- ==== Sys2Proof/Machine/Ops.lean ====
section
/-! DEFINITION. The shared operations over the registers, the stores, the interrupt line and the returned value.

The block takes no exception and returns from none (60_exceptions.md R240, R246, R247). What it has in their place
stands here as shared operations: asserting and clearing the interrupt request (setIrqSource, clearIrqSource) and
raising the one error, RestoreFailure. -/

namespace Sys2Proof.Machine

/-- What an operation answers: a next state, a fault or a refusal. -/
abbrev Result := Host.Outcome State Fault Refusal

/-- The state with other registers. -/
def State.setRegs (s : State) (r : Regs) : State := { s with regs := r }

/-- The state with a returned value. -/
def State.answer (s : State) (r : Returned) : State := { s with returned := r }

/-- setIrqSource(external): the level goes to 1; asserting an asserted line changes nothing (10_state.md R35). -/
def State.assertIrq (s : State) : State := { s with irqLine := true }

/-- clearIrqSource(external): the level goes to 0 (10_state.md R35). -/
def State.clearIrq (s : State) : State := { s with irqLine := false }

/-- raise RestoreFailure(blob): the caller is told and no field of the block changes (44_system_ops.md R226,
60_exceptions.md R256). -/
def State.raiseRestoreFailure (s : State) (blob : List Byte) : State := s.answer (.restoreFailure blob)

/-- The backing store of a space (00_scope.md R13). -/
def State.store (s : State) : Space → Memory
  | .prg => s.prg
  | .chr => s.chr
  | .wram => s.wram

/-- MemRead(space, paddr, 1) (00_scope.md R13). -/
def State.memRead (s : State) (space : Space) (paddr : Nat) : Byte := (s.store space).read paddr

/-- MemWrite(space, paddr, 1, v) (00_scope.md R13). -/
def State.memWrite (s : State) (space : Space) (paddr : Nat) (v : Byte) : State :=
  match space with
  | .prg => { s with prg := s.prg.write paddr v }
  | .chr => { s with chr := s.chr.write paddr v }
  | .wram => { s with wram := s.wram.write paddr v }

/-- A read that no permission allows: a free byte is returned and the next draw is another (20_memory.md R60, log 6). -/
def State.drawByte (s : State) : State :=
  { s with returned := .byte (Config.openBus s.draws), draws := s.draws + 1 }

/-- The end of an operation that returns nothing. -/
def complete (s : State) : Result := .next (s.answer .void)

/-- A window-gated read: the byte at the offset the window lets it read, else a draw (20_memory.md R60). -/
def gatedRead (s : State) (space : Space) (target : Option Nat) : Result :=
  match target with
  | some off => .next (s.answer (.byte (s.memRead space off)))
  | none => .next s.drawByte

/-- A window-gated write: the byte is stored at the offset the window lets it write, else silently dropped (20_memory.md
R60). -/
def gatedWrite (s : State) (space : Space) (target : Option Nat) (v : Byte) : Result :=
  match target with
  | some off => complete (s.memWrite space off v)
  | none => complete s

end Sys2Proof.Machine
end

