-- ==== Sys2Proof/Machine/IrqCounter.lean ====
section
/-! DEFINITION. The IRQ counter engine: clock_irq, invoked once per confirmed Rise and by nothing else
(42_irq_counter.md R180, R181). -/

namespace Sys2Proof.Machine

/-- The registers after one clock: step 2 (the count) and step 4 (the pending flag) of R181. -/
def clockRegs (r : Regs) : Regs :=
  { r with irqCount := nextCount r.irqCount r.irqReload r.irqLatch, irqReload := false }

/-- Step 3 of R181 on the registers before the clock. -/
def clockFires (c : Config) (r : Regs) : Bool :=
  fires c.revision r.irqEn r.irqCount r.irqReload (nextCount r.irqCount r.irqReload r.irqLatch)

/-- clock_irq(), steps 1 to 4 (R181). -/
def clockIrq (s : State) : State :=
  let t := s.setRegs (clockRegs s.regs)
  if clockFires s.cfg s.regs then t.assertIrq else t

end Sys2Proof.Machine
end

