-- ==== Sys2Proof/Machine/EdgeWatcher.lean ====
section
/-! DEFINITION. The address-line edge watcher and NOTIFY (40_edge_watcher.md R121 to R126). -/

namespace Sys2Proof.Machine

/-- The registers after observe(address, c): the new bit and stamp on an accepted transition, else unchanged
(40_edge_watcher.md R123, R125). -/
def observeRegs (cfg : Config) (r : Regs) (address c : Nat) : Regs :=
  if accepts cfg r address c then { r with ewLast := watchedBit address, ewStamp := c } else r

/-- NOTIFY (R121): observe, then clock_irq on a Rise. -/
def execNotify (address frameCycle : Nat) (s : State) : Result :=
  let t := s.setRegs (observeRegs s.cfg s.regs address frameCycle)
  match classify s.cfg s.regs address frameCycle with
  | .rise => complete (clockIrq t)
  | .fall => complete t
  | .none => complete t

end Sys2Proof.Machine
end

