-- ==== Sys2Proof/Machine/Operands.lean ====
section
/-! DEFINITION. The derived functions of the registers and cfg, and how the address operand of an access finds its byte:
window selectors, page resolution, permissions, the low memory window, mirroring (20_memory.md R55 to R62,
41_register_writes.md R160 to R164, 43_memory_access.md R203). Nothing here is stored: each is a total function of the
current registers (10_state.md R36, log 18). -/

namespace Sys2Proof.Machine

/-- can_read (00_scope.md R14). -/
def canRead : Perm → Bool
  | .none => false
  | .r => true
  | .w => false
  | .rw => true

/-- can_write (00_scope.md R14). -/
def canWrite : Perm → Bool
  | .none => false
  | .r => false
  | .w => true
  | .rw => true

/-- perm_of(r, w) (00_scope.md R14). -/
def permOf : Bool → Bool → Perm
  | false, false => .none
  | true, false => .r
  | false, true => .w
  | true, true => .rw

/-- A window entry (20_memory.md R55): a page, `none` when absent, and a permission. -/
structure Entry where
  page : Option Nat
  perm : Perm
deriving DecidableEq, Repr

/-- resolve(s, n): absent for no pages, else s emod n (20_memory.md R58, log 26). -/
def resolve (s : Int) (n : Nat) : Option Nat :=
  if n = 0 then none else some (emod s n)

/-- An entry of a store of n pages: `(resolve(s, n), perm)`, and `(absent, NONE)` for no pages (20_memory.md R55, R56). -/
def entryOf (s : Int) (n : Nat) (perm : Perm) : Entry :=
  match resolve s n with
  | some p => { page := some p, perm := perm }
  | none => { page := none, perm := .none }

/-- "forced-odd": the register's value with bit 0 set (41_register_writes.md R160). -/
def setBit0 (v : Byte) : Byte := v ||| 0x01#8

/-- chr_sel(i) in mode 0: the two pairs, then the four singles (41_register_writes.md R160). -/
def chrSelMode0 (b : Vector Byte 8) : Fin 8 → Byte
  | 0 => clearBit0 b[0]
  | 1 => setBit0 b[0]
  | 2 => clearBit0 b[1]
  | 3 => setBit0 b[1]
  | 4 => b[2]
  | 5 => b[3]
  | 6 => b[4]
  | 7 => b[5]

/-- chr_sel(i) in mode 1: the four singles, then the two pairs (41_register_writes.md R160). -/
def chrSelMode1 (b : Vector Byte 8) : Fin 8 → Byte
  | 0 => b[2]
  | 1 => b[3]
  | 2 => b[4]
  | 3 => b[5]
  | 4 => clearBit0 b[0]
  | 5 => setBit0 b[0]
  | 6 => clearBit0 b[1]
  | 7 => setBit0 b[1]

/-- chr_sel(i), a register value 0 to 255 as a selector (41_register_writes.md R160). -/
def chrSel (r : Regs) (i : Fin 8) : Int :=
  if r.chrMode then ((chrSelMode1 r.bank i).toNat : Int) else ((chrSelMode0 r.bank i).toNat : Int)

/-- prg_sel(i) in mode 0 (41_register_writes.md R161). -/
def prgSelMode0 (b : Vector Byte 8) : Fin 4 → Int
  | 0 => (b[6].toNat : Int)
  | 1 => (b[7].toNat : Int)
  | 2 => -2
  | 3 => -1

/-- prg_sel(i) in mode 1 (41_register_writes.md R161). -/
def prgSelMode1 (b : Vector Byte 8) : Fin 4 → Int
  | 0 => -2
  | 1 => (b[7].toNat : Int)
  | 2 => (b[6].toNat : Int)
  | 3 => -1

/-- prg_sel(i) (41_register_writes.md R161). -/
def prgSel (r : Regs) (i : Fin 4) : Int :=
  if r.prgMode then prgSelMode1 r.bank i else prgSelMode0 r.bank i

/-- prg_entry(i) (20_memory.md R56): PRG windows are read only (log 24). -/
def prgEntry (c : Config) (r : Regs) (i : Fin 4) : Entry := entryOf (prgSel r i) c.prgPages .r

/-- chr_entry(i) (20_memory.md R57): CHR windows have cfg.chr_perm (log 24). -/
def chrEntry (c : Config) (r : Regs) (i : Fin 8) : Entry := entryOf (chrSel r i) c.chrPages c.chrPerm

/-- low_perm(), MMC3 (41_register_writes.md R162). -/
def lowPerm (c : Config) (r : Regs) : Perm :=
  if c.wramSize = 0 then .none
  else if r.wramEn = false then .none
  else if r.wramWp = false then .rw
  else .r

/-- low_perm_half(h), MMC6 (41_register_writes.md R163). -/
def lowPermHalf (c : Config) (r : Regs) (h : Half) : Perm :=
  if c.wramSize = 0 then .none
  else
    match h with
    | .h0 => permOf r.h0r r.h0w
    | .h1 => permOf r.h1r r.h1w

/-- HALF_MMC6: the half of an address at or above 0x7000, `((a - 0x7000) >> 9) & 1` (20_memory.md R62). -/
def halfMmc6 (a : Nat) : Half := if (a - 0x7000) / 0x200 % 2 = 0 then .h0 else .h1

/-- cfg.low_half_map(a) for an address of the low window: outside, or the half and the WRAM offset (20_memory.md R62). An
offset of a table is reduced emod wram_size as the two named instances' offsets are (log 13). -/
def lowHalfMap (c : Config) (a : Nat) : Option (Half × Nat) :=
  match c.lowHalfMap with
  | .halfMmc6 =>
    if 0x7000 ≤ a ∧ a ≤ 0x7FFF then some (halfMmc6 a, (a - 0x7000) % 0x400 % c.wramSize) else none
  | .halfLiteral =>
    some (if a < lowBase + lowSize / 2 then .h0 else .h1, (a - lowBase) % c.wramSize)
  | .table entries =>
    match entries[a - lowBase]? with
    | some (some (h, off)) => some (h, off % c.wramSize)
    | some none => none
    | none => none

/-- low_lookup(a): the permission and the WRAM offset of an address of the low window (43_memory_access.md R203, log 26). -/
def lowLookup (c : Config) (r : Regs) (a : Nat) : Perm × Nat :=
  match c.variant with
  | .mmc3 => (lowPerm c r, (a - lowBase) % c.wramSize)
  | .mmc6 =>
    match lowHalfMap c a with
    | some (h, off) => (lowPermHalf c r h, off)
    | none => (.none, 0)

/-- Where an entry puts in-window offset o: `page * size + o` (20_memory.md R59). -/
def entryTarget (e : Entry) (pageSize o : Nat) : Option (Perm × Nat) :=
  match e.page with
  | some p => some (e.perm, p * pageSize + o)
  | none => none

/-- The permission and physical offset in PRG of a CPU address; none outside the windows (30_encoding.md R103, log 19) or when the
window is absent (20_memory.md R52, R59). -/
def prgTarget (c : Config) (r : Regs) (a : Nat) : Option (Perm × Nat) :=
  if inPrg a then entryTarget (prgEntry c r (prgWindow a)) prgPage (prgOffset a) else none

/-- The permission and physical offset in CHR of a video address; none outside the windows or when absent. -/
def chrTarget (c : Config) (r : Regs) (v : Nat) : Option (Perm × Nat) :=
  if inChr v then entryTarget (chrEntry c r (chrWindow v)) chrPage (chrOffset v) else none

/-- The permission and offset in WRAM of a CPU address; none outside the low window. -/
def lowTarget (c : Config) (r : Regs) (a : Nat) : Option (Perm × Nat) :=
  if inLow a then some (lowLookup c r a) else none

/-- The byte offset an access may read: the target's, when its permission can read (20_memory.md R60). -/
def readable : Option (Perm × Nat) → Option Nat
  | some (p, off) => if canRead p then some off else none
  | none => none

/-- The byte offset an access may write: the target's, when its permission can write (20_memory.md R60). -/
def writable : Option (Perm × Nat) → Option Nat
  | some (p, off) => if canWrite p then some off else none
  | none => none

/-- mirroring() (41_register_writes.md R164, log 11). -/
def mirroring (c : Config) (r : Regs) : Mirroring :=
  if c.fourScreen then .fourScreen
  else if r.mirr then .horizontal
  else .vertical

end Sys2Proof.Machine
end

