-- ==== Sys2Proof/Machine/MemoryAccess.lean ====
section
/-! DEFINITION. The window-gated accesses (43_memory_access.md R201 to R206). None changes a register; none feeds the edge
watcher (40_edge_watcher.md R120). -/

namespace Sys2Proof.Machine

/-- WRAMRD (R201). -/
def execWramrd (address : Nat) (s : State) : Result :=
  gatedRead s .wram (readable (lowTarget s.cfg s.regs address))

/-- WRAMWR (R202). -/
def execWramwr (address : Nat) (value : Byte) (s : State) : Result :=
  gatedWrite s .wram (writable (lowTarget s.cfg s.regs address)) value

/-- PRGRD (R204). -/
def execPrgrd (address : Nat) (s : State) : Result :=
  gatedRead s .prg (readable (prgTarget s.cfg s.regs address))

/-- CHRRD (R205). -/
def execChrrd (address : Nat) (s : State) : Result :=
  gatedRead s .chr (readable (chrTarget s.cfg s.regs address))

/-- CHRWR (R206). -/
def execChrwr (address : Nat) (value : Byte) (s : State) : Result :=
  gatedWrite s .chr (writable (chrTarget s.cfg s.regs address)) value

end Sys2Proof.Machine
end

