-- ==== Sys2Proof/Machine/RegisterWrites.lean ====
section
/-! DEFINITION. The eight register writes (41_register_writes.md R150 to R158), the two WRAMCTL rows apart. Every write is
accepted and returns nothing (R140); the derived values follow the new registers by being functions of them (R165). The bit positions of R97
to R99 are PRESUMED, log 11. -/

namespace Sys2Proof.Machine

/-- SELECT (R150, byte R95): chr_mode from bit 7, prg_mode from bit 6, sel from bits 2 to 0. -/
def execSelect (value : Byte) (s : State) : Result :=
  complete (s.setRegs { s.regs with
    sel := value.extractLsb' 0 3, chrMode := value.getLsbD 7, prgMode := value.getLsbD 6 })

/-- The byte DATA stores: bit 0 forced to 0 when the index is 0 or 1 (R151, byte R96). -/
def dataByte (sel : BitVec 3) (value : Byte) : Byte :=
  if sel = 0#3 ∨ sel = 1#3 then clearBit0 value else value

/-- DATA (R151). -/
def execData (value : Byte) (s : State) : Result :=
  complete (s.setRegs { s.regs with
    bank := s.regs.bank.set s.regs.sel.toNat (dataByte s.regs.sel value) s.regs.sel.isLt })

/-- MIRROR (R152, byte R97): mirr from bit 0. -/
def execMirror (value : Byte) (s : State) : Result :=
  complete (s.setRegs { s.regs with mirr := value.getLsbD 0 })

/-- The registers after WRAMCTL on an MMC3 (R153, byte R98): wram_en from bit 7, wram_wp from bit 6. -/
def wramctlMmc3Regs (value : Byte) (r : Regs) : Regs :=
  { r with wramEn := value.getLsbD 7, wramWp := value.getLsbD 6 }

/-- The registers after WRAMCTL on an MMC6 (R154, byte R99): h1_r, h1_w, h0_r, h0_w from bits 7 to 4. -/
def wramctlMmc6Regs (value : Byte) (r : Regs) : Regs :=
  { r with h1r := value.getLsbD 7, h1w := value.getLsbD 6, h0r := value.getLsbD 5, h0w := value.getLsbD 4 }

/-- The registers after a WRAMCTL write on the cartridge: cfg.variant selects the layout of its byte (30_encoding.md R106). -/
def wramctlRegs (v : Variant) (value : Byte) (r : Regs) : Regs :=
  match v with
  | .mmc3 => wramctlMmc3Regs value r
  | .mmc6 => wramctlMmc6Regs value r

/-- WRAMCTL.MMC3 (R153). The row's condition is cfg.variant = MMC3 and the decoder yields it only then; on an MMC6 the same
bus write is that cartridge's WRAMCTL (log 12). -/
def execWramctlMmc3 (value : Byte) (s : State) : Result :=
  complete (s.setRegs (wramctlRegs s.cfg.variant value s.regs))

/-- WRAMCTL.MMC6 (R154). The row's condition is cfg.variant = MMC6 and the decoder yields it only then; on an MMC3 the same
bus write is that cartridge's WRAMCTL (log 12). -/
def execWramctlMmc6 (value : Byte) (s : State) : Result :=
  complete (s.setRegs (wramctlRegs s.cfg.variant value s.regs))

/-- IRQLATCH (R155, byte R100). -/
def execIrqlatch (value : Byte) (s : State) : Result :=
  complete (s.setRegs { s.regs with irqLatch := value })

/-- IRQRELOAD (R156); the byte is ignored (30_encoding.md R101). -/
def execIrqreload (_value : Byte) (s : State) : Result :=
  complete (s.setRegs { s.regs with irqCount := 0#8, irqReload := true })

/-- IRQDIS (R157); the byte is ignored (30_encoding.md R101). -/
def execIrqdis (_value : Byte) (s : State) : Result :=
  complete (s.setRegs { s.regs with irqEn := false }).clearIrq

/-- IRQEN (R158); the byte is ignored (30_encoding.md R101). -/
def execIrqen (_value : Byte) (s : State) : Result :=
  complete (s.setRegs { s.regs with irqEn := true })

end Sys2Proof.Machine
end

