-- ==== Sys2Proof/Machine/Snapshot.lean ====
section
/-! DEFINITION. The snapshot blob: the optional 20-byte layout of 44_system_ops.md R224, and decode(blob), which is invalid
exactly when the blob is not encode of a valid field tuple (R226). DESIGN CHOICE, log 14: a stamp that does not fit the
layout's 32 bits goes on, little-endian, in further bytes, so that encode is injective on every tuple (R223, R227). -/

namespace Sys2Proof.Machine

/-- A byte from its eight bits, bit 7 first. -/
def packBits (b7 b6 b5 b4 b3 b2 b1 b0 : Bool) : Byte :=
  BitVec.ofBool b7 ++ BitVec.ofBool b6 ++ BitVec.ofBool b5 ++ BitVec.ofBool b4 ++
    BitVec.ofBool b3 ++ BitVec.ofBool b2 ++ BitVec.ofBool b1 ++ BitVec.ofBool b0

/-- The little-endian bytes of n without leading zero bytes, at most `fuel` of them. -/
def leTail : Nat → Nat → List Byte
  | 0, _ => []
  | fuel + 1, n => if n = 0 then [] else BitVec.ofNat 8 n :: leTail fuel (n / 256)

/-- The number of little-endian bytes. -/
def leNat : List Byte → Nat
  | [] => 0
  | b :: rest => b.toNat + 256 * leNat rest

/-- ew_stamp: four bytes, least significant first (R224), and the further bytes of a larger number (log 14). -/
def stampBytes (n : Nat) : List Byte :=
  BitVec.ofNat 8 n :: BitVec.ofNat 8 (n / 256) :: BitVec.ofNat 8 (n / 65536) :: BitVec.ofNat 8 (n / 16777216) ::
    leTail (n / 4294967296) (n / 4294967296)

/-- Byte 8: the SELECT byte layout (R224). -/
def selectImage (r : Regs) : Byte :=
  packBits r.chrMode r.prgMode false false false (r.sel.getLsbD 2) (r.sel.getLsbD 1) (r.sel.getLsbD 0)

/-- encode(fields) (R223, R224). -/
def encodeBlob (r : Regs) : List Byte :=
  [r.bank[0], r.bank[1], r.bank[2], r.bank[3], r.bank[4], r.bank[5], r.bank[6], r.bank[7],
    selectImage r,
    packBits false false false false false false false r.mirr,
    packBits r.wramEn r.wramWp false false false false false false,
    packBits r.h1r r.h1w r.h0r r.h0w false false false false,
    r.irqCount,
    r.irqLatch,
    packBits false false false false false false r.irqReload r.irqEn,
    packBits false false false false false false false r.ewLast] ++ stampBytes r.ewStamp

/-- Byte k of a blob. -/
def blobByte (blob : List Byte) (k : Nat) : Byte := blob.getD k 0#8

/-- The fields at their places of R224, whatever the other bits and the length are. -/
def blobFields (blob : List Byte) : Regs :=
  { bank := #v[blobByte blob 0, blobByte blob 1, blobByte blob 2, blobByte blob 3, blobByte blob 4, blobByte blob 5,
      blobByte blob 6, blobByte blob 7]
    sel := (blobByte blob 8).extractLsb' 0 3
    chrMode := (blobByte blob 8).getLsbD 7
    prgMode := (blobByte blob 8).getLsbD 6
    mirr := (blobByte blob 9).getLsbD 0
    wramEn := (blobByte blob 10).getLsbD 7
    wramWp := (blobByte blob 10).getLsbD 6
    h1r := (blobByte blob 11).getLsbD 7
    h1w := (blobByte blob 11).getLsbD 6
    h0r := (blobByte blob 11).getLsbD 5
    h0w := (blobByte blob 11).getLsbD 4
    irqCount := blobByte blob 12
    irqLatch := blobByte blob 13
    irqReload := (blobByte blob 14).getLsbD 1
    irqEn := (blobByte blob 14).getLsbD 0
    ewLast := (blobByte blob 15).getLsbD 0
    ewStamp := leNat (blob.drop 16) }

/-- decode(blob): the fields, when the blob is their encoding and they satisfy the invariants of 10_state.md; else invalid
(R226). -/
def decodeBlob (c : Config) (blob : List Byte) : Option Regs :=
  let r := blobFields blob
  if encodeBlob r = blob ∧ r.valid c = true then some r else none

end Sys2Proof.Machine
end

