-- ==== Sys2Proof/Machine/SystemOps.lean ====
section
/-! DEFINITION. Reset, snapshot, restore and the debug query (44_system_ops.md R220 to R228). -/

namespace Sys2Proof.Machine

/-- RESET (R220): every field its reset value, the line deasserted; cfg and the stores are left alone (70_reset_and_hazards.md
R273, log 16). -/
def execReset (s : State) : Result :=
  complete (s.setRegs (powerOnRegs s.cfg)).clearIrq

/-- SNAPSHOT (R222). -/
def execSnapshot (s : State) : Result :=
  .next (s.answer (.blob (encodeBlob s.regs)))

/-- RESTORE (R225, R226): every field from the blob, the line untouched; or the failure, nothing changed (log 15). -/
def execRestore (blob : List Byte) (s : State) : Result :=
  match decodeBlob s.cfg blob with
  | some r => complete (s.setRegs r)
  | none => .next (s.raiseRestoreFailure blob)

/-- The current value of an item of QUERY (R228). -/
def queryValue (s : State) : QueryItem → QueryValue
  | .bank i => .byte s.regs.bank[i]
  | .sel => .index s.regs.sel
  | .prgMode => .bit s.regs.prgMode
  | .chrMode => .bit s.regs.chrMode
  | .mirr => .bit s.regs.mirr
  | .wramEn => .bit s.regs.wramEn
  | .wramWp => .bit s.regs.wramWp
  | .h0r => .bit s.regs.h0r
  | .h0w => .bit s.regs.h0w
  | .h1r => .bit s.regs.h1r
  | .h1w => .bit s.regs.h1w
  | .irqCount => .byte s.regs.irqCount
  | .irqLatch => .byte s.regs.irqLatch
  | .irqEn => .bit s.regs.irqEn
  | .irqReload => .bit s.regs.irqReload
  | .ewLast => .bit s.regs.ewLast
  | .ewStamp => .number s.regs.ewStamp
  | .irqLine => .bit s.irqLine
  | .mirroring => .mirroring (mirroring s.cfg s.regs)
  | .chrPage i => .page (chrEntry s.cfg s.regs i).page
  | .prgPage i => .page (prgEntry s.cfg s.regs i).page
  | .lowPerm => .perm (lowPerm s.cfg s.regs)
  | .lowPermHalf h => .perm (lowPermHalf s.cfg s.regs h)

/-- The registers of 10_state.md R41 as items. -/
def registerItems : List QueryItem :=
  (List.finRange 8).map QueryItem.bank ++
    [QueryItem.sel, QueryItem.prgMode, QueryItem.chrMode, QueryItem.mirr, QueryItem.wramEn, QueryItem.wramWp,
      QueryItem.h0r, QueryItem.h0w, QueryItem.h1r, QueryItem.h1w, QueryItem.irqCount, QueryItem.irqLatch,
      QueryItem.irqEn, QueryItem.irqReload, QueryItem.ewLast, QueryItem.ewStamp]

/-- The low-window permission items: one on an MMC3, one for each half on an MMC6. -/
def lowPermItems : Variant → List QueryItem
  | .mmc3 => [QueryItem.lowPerm]
  | .mmc6 => [QueryItem.lowPermHalf .h0, QueryItem.lowPermHalf .h1]

/-- The items of R228's set, in this model's order (DESIGN CHOICE, log 17). -/
def queryItems (v : Variant) : List QueryItem :=
  registerItems ++ [QueryItem.irqLine, QueryItem.mirroring] ++ (List.finRange 8).map QueryItem.chrPage ++
    (List.finRange 4).map QueryItem.prgPage ++ lowPermItems v

/-- The tuple of an item: its label and kind are free values (log 17). -/
def queryRow (s : State) (i : QueryItem) : QueryRow :=
  { label := Config.queryLabel i, name := i, value := queryValue s i, kind := Config.queryKind i }

/-- QUERY (R228): purely observational. -/
def execQuery (s : State) : Result :=
  .next (s.answer (.table ((queryItems s.cfg.variant).map (queryRow s))))

end Sys2Proof.Machine
end

