-- ==== Sys2Proof/Machine/Dispatch.lean ====
section
/-! DEFINITION. One arm per constructor of Instr, each one direct call of that instruction's meaning. -/

namespace Sys2Proof.Machine

def exec (i : Instr) (s : State) : Host.Outcome State Fault Refusal :=
  match i with
  -- the register writes, 41_register_writes.md
  | .select value => Sys2Proof.Machine.execSelect value s
  | .data value => Sys2Proof.Machine.execData value s
  | .mirror value => Sys2Proof.Machine.execMirror value s
  | .wramctlMmc3 value => Sys2Proof.Machine.execWramctlMmc3 value s
  | .wramctlMmc6 value => Sys2Proof.Machine.execWramctlMmc6 value s
  | .irqlatch value => Sys2Proof.Machine.execIrqlatch value s
  | .irqreload value => Sys2Proof.Machine.execIrqreload value s
  | .irqdis value => Sys2Proof.Machine.execIrqdis value s
  | .irqen value => Sys2Proof.Machine.execIrqen value s
  -- the edge watcher, 40_edge_watcher.md
  | .notify address frameCycle => Sys2Proof.Machine.execNotify address frameCycle s
  -- the window-gated accesses, 43_memory_access.md
  | .wramrd address => Sys2Proof.Machine.execWramrd address s
  | .wramwr address value => Sys2Proof.Machine.execWramwr address value s
  | .prgrd address => Sys2Proof.Machine.execPrgrd address s
  | .chrrd address => Sys2Proof.Machine.execChrrd address s
  | .chrwr address value => Sys2Proof.Machine.execChrwr address value s
  -- the system operations, 44_system_ops.md
  | .reset => Sys2Proof.Machine.execReset s
  | .snapshot => Sys2Proof.Machine.execSnapshot s
  | .restore blob => Sys2Proof.Machine.execRestore blob s
  | .query => Sys2Proof.Machine.execQuery s

end Sys2Proof.Machine
end

