-- ==== Sys2Proof/Machine/Step.lean ====
section
/-! DEFINITION. One step: the block runs the oldest operation the host has issued, to completion (00_scope.md R16,
20_memory.md R68). The block has no program counter and no fetch (10_state.md R24); the host's operations stand in
State.input (log 4). -/

namespace Sys2Proof.Machine

/-- The state once the host's oldest operation has been taken from the input. -/
def State.consume (s : State) (rest : List Event) : State := { s with input := rest }

/-- One step. An empty input is the end of the run (00_scope.md R16); a register write that matches no pattern has no
effect on any state and returns nothing (30_encoding.md R105, log 20). -/
def step (s : State) : Host.Outcome State Fault Refusal :=
  match s.input with
  | [] => .fault .noOperation
  | e :: rest =>
    match decode s.cfg.variant e with
    | .ok i => exec i (s.consume rest)
    | .error _ => complete (s.consume rest)

/-- The state whose very next step runs the opcode-table word w of nbits bits: the register write stands in front of the
operations the host has issued (log 4). -/
def State.withFetchWord (s : State) (nbits w : Nat) : State :=
  { s with input := .regw (BitVec.ofNat 24 (w % 2 ^ nbits)) :: s.input }

end Sys2Proof.Machine
end

