-- ==== Sys2Proof/Machine/Routing.lean ====
section
/-! DEFINITION. The host's routing of bus accesses to operations of the block (30_encoding.md R92, 43_memory_access.md R200,
40_edge_watcher.md R120), with the ranges of 20_memory.md R53. The host is outside the block: `step` takes events, and
this function says which event a bus access is (log 23). -/

namespace Sys2Proof.Machine

/-- An access on one of the console's two buses, as the host sees it. -/
inductive BusAccess where
  /-- The CPU reads an address. -/
  | cpuRead (address : BitVec 16)
  /-- The CPU writes a byte at an address. -/
  | cpuWrite (address : BitVec 16) (value : Byte)
  /-- The video subsystem computes an address at a frame position. -/
  | videoAddress (address frameCycle : Nat)
  /-- The video subsystem reads an address. -/
  | videoRead (address : Nat)
  /-- The video subsystem writes a byte at an address. -/
  | videoWrite (address : Nat) (value : Byte)
deriving DecidableEq, Repr

/-- A CPU address whose masked form is one of the eight patterns (30_encoding.md R94). -/
def isRegister (address : BitVec 16) : Bool :=
  let p := address &&& regMask
  p = patSelect || p = patData || p = patMirror || p = patWramctl || p = patIrqlatch || p = patIrqreload ||
    p = patIrqdis || p = patIrqen

/-- The operation a bus access is, none where it is the platform's and not the block's (30_encoding.md R92, 20_memory.md
R53). A CPU write at a register address is a register write "and nothing else". -/
def route : BusAccess → Option Event
  | .cpuRead a =>
    if inPrg a.toNat then some (.memr .prg a.toNat)
    else if inLow a.toNat then some (.memr .wram a.toNat)
    else none
  | .cpuWrite a v =>
    if isRegister a then some (.write a v)
    else if inLow a.toNat then some (.memw .wram a.toNat v)
    else none
  | .videoAddress a c => some (.note a c)
  | .videoRead a => if inChr a then some (.memr .chr a) else none
  | .videoWrite a v => if inChr a then some (.memw .chr a v) else none

end Sys2Proof.Machine
end

