-- ==== Sys2Proof/Machine/Trace.lean ====
section
/-! DEFINITION. The trace notation of 30_encoding.md R107, one operation per line, as characters: printing an event and
reading a line, total, rejecting by name; and the three abbreviations of R108. "Numbers are hexadecimal without prefix,
except @c, which is decimal." Conventions the spec leaves open (digits printed in capitals, a blob printed as its bytes
two digits each) are DESIGN CHOICE, log 22. The notation is for vectors and programs and no step reads it. -/

namespace Sys2Proof.Machine

/-- Why a line is no operation. -/
inductive TraceError where
  /-- The line's words match no row of R107. -/
  | noSuchLine
  /-- A word that should be a number is none. -/
  | notANumber
  /-- A number that does not fit its operand: a register address of more than 16 bits, a byte of more than 8. -/
  | tooLarge
deriving DecidableEq, Repr

/-- The digit d, 0 to 15, as a character. -/
def digitChar (d : Nat) : Char :=
  if d < 10 then Char.ofNat (48 + d) else Char.ofNat (55 + d)

/-- The value of a hexadecimal digit, capital or small. -/
def charDigit (ch : Char) : Option Nat :=
  let n := ch.toNat
  if 48 ≤ n ∧ n ≤ 57 then some (n - 48)
  else if 65 ≤ n ∧ n ≤ 70 then some (n - 55)
  else if 97 ≤ n ∧ n ≤ 102 then some (n - 87)
  else none

/-- The digits of n, least significant first, no leading zero, at most `fuel` of them. -/
def leDigits (base : Nat) : Nat → Nat → List Nat
  | 0, _ => []
  | fuel + 1, n => if n = 0 then [] else n % base :: leDigits base fuel (n / base)

/-- Digits, least significant first, filled with zeros to at least `least` of them. -/
def padDigits (least : Nat) (ds : List Nat) : List Nat := ds ++ List.replicate (least - ds.length) 0

/-- A number in a base, at least `least` digits. -/
def printNumber (base least n : Nat) : List Char :=
  ((padDigits least (leDigits base n n)).reverse).map digitChar

/-- One more digit of a number being read. -/
def readDigit (base : Nat) (acc : Option Nat) (ch : Char) : Option Nat :=
  match acc, charDigit ch with
  | some n, some d => if d < base then some (n * base + d) else none
  | some _, none => none
  | none, _ => none

/-- A number in a base; no digits are no number. -/
def readNumber (base : Nat) : List Char → Option Nat
  | [] => none
  | ch :: rest => (ch :: rest).foldl (readDigit base) (some 0)

/-- A hexadecimal number below a bound. -/
def readHex (bound : Nat) (word : List Char) : Except TraceError Nat :=
  match readNumber 16 word with
  | none => .error .notANumber
  | some n => if n < bound then .ok n else .error .tooLarge

/-- A hexadecimal number of any size: an address of no stated width (20_memory.md R51). -/
def readAddress (word : List Char) : Except TraceError Nat :=
  match readNumber 16 word with
  | none => .error .notANumber
  | some n => .ok n

/-- A byte. -/
def readByte (word : List Char) : Except TraceError Byte :=
  match readHex 256 word with
  | .ok n => .ok (BitVec.ofNat 8 n)
  | .error e => .error e

/-- `@c`: a decimal number after the sign @. -/
def readCycle : List Char → Except TraceError Nat
  | '@' :: digits =>
    match readNumber 10 digits with
    | none => .error .notANumber
    | some n => .ok n
  | _ => .error .notANumber

/-- The words of a line, separated by single spaces. -/
def splitWords : List Char → List (List Char)
  | [] => [[]]
  | ch :: rest =>
    if ch = ' ' then [] :: splitWords rest
    else
      match splitWords rest with
      | [] => [[ch]]
      | word :: words => (ch :: word) :: words

/-- Words joined by single spaces. -/
def joinWords : List (List Char) → List Char
  | [] => []
  | [word] => word
  | word :: next :: words => word ++ ' ' :: joinWords (next :: words)

/-- The bytes of a blob, one word each. -/
def readBytes : List (List Char) → Except TraceError (List Byte)
  | [] => .ok []
  | word :: words =>
    match readByte word, readBytes words with
    | .ok b, .ok bs => .ok (b :: bs)
    | .ok _, .error e => .error e
    | .error e, _ => .error e

/-- An address of the block's windows as a word: four digits or more. -/
def printAddress (a : Nat) : List Char := printNumber 16 4 a

/-- A byte as a word: two digits. -/
def printByte (b : Byte) : List Char := printNumber 16 2 b.toNat

/-- The words of an event's line (30_encoding.md R107). -/
def traceWords : Event → List (List Char)
  | .regw word => [['W'], printAddress (wordAddress word).toNat, printByte (wordValue word)]
  | .note a c => [['A'], printAddress a, '@' :: printNumber 10 1 c]
  | .memw .wram a v => [['M', 'W'], printAddress a, printByte v]
  | .memw .chr a v => [['C', 'W'], printAddress a, printByte v]
  | .memr .wram a => [['M', 'R'], printAddress a]
  | .memr .prg a => [['P', 'R'], printAddress a]
  | .memr .chr a => [['C', 'R'], printAddress a]
  | .sys .reset => [['R', 'S', 'T']]
  | .sys .snapshot => [['S', 'N', 'A', 'P']]
  | .sys (.restore blob) => ['R', 'E', 'S', 'T'] :: blob.map printByte
  | .sys .query => [['D', 'B', 'G']]

/-- The line of an event. -/
def printLine (e : Event) : List Char := joinWords (traceWords e)

/-- `W aaaa vv`. -/
def readRegw (a v : List Char) : Except TraceError Event :=
  match readHex 65536 a, readByte v with
  | .ok n, .ok b => .ok (.write (BitVec.ofNat 16 n) b)
  | .ok _, .error e => .error e
  | .error e, _ => .error e

/-- A store's line. -/
def readStore (port : WritePort) (a v : List Char) : Except TraceError Event :=
  match readAddress a, readByte v with
  | .ok n, .ok b => .ok (.memw port n b)
  | .ok _, .error e => .error e
  | .error e, _ => .error e

/-- A read's line. -/
def readLoad (port : ReadPort) (a : List Char) : Except TraceError Event :=
  match readAddress a with
  | .ok n => .ok (.memr port n)
  | .error e => .error e

/-- `A aaaa @c`. -/
def readNote (a c : List Char) : Except TraceError Event :=
  match readAddress a, readCycle c with
  | .ok n, .ok k => .ok (.note n k)
  | .ok _, .error e => .error e
  | .error e, _ => .error e

/-- `REST b`. -/
def readRestore (bytes : List (List Char)) : Except TraceError Event :=
  match readBytes bytes with
  | .ok bs => .ok (.sys (.restore bs))
  | .error e => .error e

/-- A line of no operand. -/
def noOperand (e : Event) : List (List Char) → Except TraceError Event
  | [] => .ok e
  | _ :: _ => .error .noSuchLine

/-- A line of one operand. -/
def oneOperand (f : List Char → Except TraceError Event) : List (List Char) → Except TraceError Event
  | [a] => f a
  | _ => .error .noSuchLine

/-- A line of two operands. -/
def twoOperands (f : List Char → List Char → Except TraceError Event) : List (List Char) → Except TraceError Event
  | [a, b] => f a b
  | _ => .error .noSuchLine

/-- The event of a line's words: the operation's name and its operands (30_encoding.md R107). -/
def readWords : List (List Char) → Except TraceError Event
  | [] => .error .noSuchLine
  | name :: operands =>
    if name = ['W'] then twoOperands readRegw operands
    else if name = ['A'] then twoOperands readNote operands
    else if name = ['M', 'W'] then twoOperands (readStore .wram) operands
    else if name = ['C', 'W'] then twoOperands (readStore .chr) operands
    else if name = ['M', 'R'] then oneOperand (readLoad .wram) operands
    else if name = ['P', 'R'] then oneOperand (readLoad .prg) operands
    else if name = ['C', 'R'] then oneOperand (readLoad .chr) operands
    else if name = ['R', 'S', 'T'] then noOperand (.sys .reset) operands
    else if name = ['S', 'N', 'A', 'P'] then noOperand (.sys .snapshot) operands
    else if name = ['D', 'B', 'G'] then noOperand (.sys .query) operands
    else if name = ['R', 'E', 'S', 'T'] then readRestore operands
    else .error .noSuchLine

/-- The event of a line. -/
def readLine (line : List Char) : Except TraceError Event := readWords (splitWords line)

/-- The abbreviation `BANK r, v`, r carrying the mode bits in bits 7 and 6 (30_encoding.md R108). -/
def bankEvents (r v : Byte) : List Event := [.write 0x8000#16 r, .write 0x8001#16 v]

/-- The abbreviation `IRQSET n` (30_encoding.md R108). -/
def irqsetEvents (n : Byte) : List Event :=
  [.write 0xC000#16 n, .write 0xC001#16 0#8, .write 0xE001#16 0#8]

/-- The abbreviation `IRQACK` (30_encoding.md R108). -/
def irqackEvents : List Event := [.write 0xE000#16 0#8, .write 0xE001#16 0#8]

end Sys2Proof.Machine
end

