-- ==== Sys2Proof/Safety.lean ====
section
/-! DEFINITION. What counts as a good state, in the terms the claims use. The block has no faults, so a safe run is one
whose every state keeps the invariants of 10_state.md and of the stores. -/

namespace Sys2Proof.Machine

/-- A store's form: canonical, and inside its size (20_memory.md R51). -/
abbrev State.storeWf (s : State) (space : Space) : Prop :=
  (s.store space).wf ∧ (s.store space).within (spaceSize s.cfg space)

/-- Every issued notification lies inside the frame, the host's assumption (30_encoding.md R102, 92_eei_decisions.md D28). -/
abbrev State.inputInFrame (s : State) : Prop := ∀ e ∈ s.input, e.inFrame s.cfg = true

/-- The invariant of every state the host can bring the block to: cfg is well formed, the registers keep R23 and R34, the
three stores are canonical and hold no byte outside their size, and the operations still to come keep the host's
assumption. -/
structure State.Inv (s : State) : Prop where
  cfg : s.cfg.wf = true
  regs : s.regs.valid s.cfg = true
  prg : s.storeWf .prg
  chr : s.storeWf .chr
  wram : s.storeWf .wram
  input : s.inputInFrame

/-- The interrupt request the host presents to the CPU (60_exceptions.md R241). -/
def State.irqRequest (s : State) : Bool := s.irqLine

/-- A run of n steps, the host's `Core.run` at the machine's own types. -/
def run (n : Nat) (s : State) : Host.Outcome State Fault Refusal := Sys2Proof.core.run n s

end Sys2Proof.Machine
end

