-- ==== Sys2Proof/WellFormed.lean ====
section
/-! DEFINITION. What an instruction of the host satisfies on a given cartridge. These are the host's duties, not the
block's checks: the block runs every operation it receives (00_scope.md R15), an ill-formed one too (logs 9, 12, 19). -/

namespace Sys2Proof

/-- The operand ranges: a WRAMCTL row has its `condition` cfg.variant (30_encoding.md R106), NOTIFY's frame position lies
inside the frame (R102), a window access has an address of its window (R103). -/
def WellFormed (c : Config) : Instr → Bool
  | .select _ => true
  | .data _ => true
  | .mirror _ => true
  | .wramctlMmc3 _ => c.variant == .mmc3
  | .wramctlMmc6 _ => c.variant == .mmc6
  | .irqlatch _ => true
  | .irqreload _ => true
  | .irqdis _ => true
  | .irqen _ => true
  | .notify _ frameCycle => c.inFrame frameCycle
  | .wramrd address => Machine.inLow address
  | .wramwr address _ => Machine.inLow address
  | .prgrd address => Machine.inPrg address
  | .chrrd address => Machine.inChr address
  | .chrwr address _ => Machine.inChr address
  | .reset => true
  | .snapshot => true
  | .restore _ => true
  | .query => true

end Sys2Proof
end

