-- ==== Sys2Proof/Certificates/Slice0/Obligations.lean ====
section
/-! DEFINITION. The statements for the provers. Each formalises rules of spec/; cfg is a field of State, so a statement about
every state is one about every cartridge, every power-on function and every debounce condition.

The register patterns, the address-map numbers and some bit positions that the statements write as literals are the
spec's adopted defaults, which it marks as general knowledge (logs 10 and 11): statements that rest on them are 'derived'. -/

namespace Sys2Proof.Claims

open Machine

/-! The frames the statements share. -/

/-- Every byte of every store reads as before. -/
def SameBytes (s t : State) : Prop := ∀ sp a, t.memRead sp a = s.memRead sp a

/-- Every byte of every store but the one at `off` of `sp` reads as before. -/
def SameBytesBut (sp : Space) (off : Nat) (s t : State) : Prop :=
  ∀ sp' a, (sp', a) ≠ (sp, off) → t.memRead sp' a = s.memRead sp' a

/-- The configuration, the operations still to come and the count of drawn bytes are as before. -/
def SameRest (s t : State) : Prop := t.cfg = s.cfg ∧ t.input = s.input ∧ t.draws = s.draws

/-- All but the registers and the returned value is as before, and nothing is returned: the frame of a register write that
does not touch the interrupt line. -/
def RegisterWriteFrame (s t : State) : Prop :=
  SameBytes s t ∧ SameRest s t ∧ t.irqLine = s.irqLine ∧ t.returned = .void

/-- The registers, the line, and every byte are as before: the frame of an operation that only observes. -/
def ObserverFrame (s t : State) : Prop :=
  SameBytes s t ∧ t.cfg = s.cfg ∧ t.input = s.input ∧ t.regs = s.regs ∧ t.irqLine = s.irqLine

/-- What a read answers: the byte at `off` of `sp`, no draw. -/
def ReturnsByteAt (sp : Space) (off : Nat) (s t : State) : Prop :=
  t.returned = .byte (s.memRead sp off) ∧ t.draws = s.draws ∧ ObserverFrame s t

/-- What a denied read answers: a free byte, and the next draw is another. -/
def ReturnsDraw (s t : State) : Prop :=
  t.returned = .byte (Config.openBus s.draws) ∧ t.draws = s.draws + 1 ∧ ObserverFrame s t

/-- What an allowed write does: the byte at `off` of `sp` becomes v, nothing else changes. -/
def StoresByteAt (sp : Space) (off : Nat) (v : Byte) (s t : State) : Prop :=
  ((s.store sp).wf → t.memRead sp off = v) ∧ SameBytesBut sp off s t ∧ SameRest s t ∧ t.regs = s.regs ∧
    t.irqLine = s.irqLine ∧ t.returned = .void

/-- What a dropped write does: nothing. -/
def Dropped (s t : State) : Prop := t = { s with returned := .void }

/-- An address of the low window that can be neither read nor written. -/
def ReachesNothing (c : Config) (r : Regs) (a : Nat) : Prop :=
  readable (lowTarget c r a) = none ∧ writable (lowTarget c r a) = none

/-- The edge watcher's two fields are as before. -/
def SameWatcher (r q : Regs) : Prop := q.ewLast = r.ewLast ∧ q.ewStamp = r.ewStamp

/-- A register write at every address of the pattern is the instruction (30_encoding.md R93, R94). -/
def WrittenAt (pattern : BitVec 16) (x : Byte) (i : Instr) : Prop :=
  ∀ (v : Variant) (a : BitVec 16), a &&& 0xE001#16 = pattern → decode v (.write a x) = .ok i

/-- The list of QUERY has a tuple for the item with the value. -/
def Reports (rows : List QueryRow) (item : QueryItem) (value : QueryValue) : Prop :=
  ∃ row ∈ rows, row.name = item ∧ row.value = value

/-- The classification of the oldest operation of the input, when it is a NOTIFY. -/
def edgeOf (s : State) : Edge :=
  match s.input with
  | .note a c :: _ => classify s.cfg s.regs a c
  | _ => .none

/-- The classifications of a run of at most n steps. -/
def runEdges : Nat → State → List Edge
  | 0, _ => []
  | n + 1, s =>
    match step s with
    | .next t => edgeOf s :: runEdges n t
    | .fault _ => []
    | .refused _ => []

/-- The Rises and Falls of a run, in order. -/
def runTransitions (n : Nat) (s : State) : List Edge := (runEdges n s).filter fun e => decide (e ≠ .none)

/-- The state with other MMC6 bits. -/
def withHalves (a b c d : Bool) (s : State) : State :=
  { s with regs := { s.regs with h0r := a, h0w := b, h1r := c, h1w := d } }

/-- The state with other MMC3 bits. -/
def withFlags (a b : Bool) (s : State) : State :=
  { s with regs := { s.regs with wramEn := a, wramWp := b } }

/-- The boot order of 70_reset_and_hazards.md R279, m carrying the mode bits in bits 7 and 6. -/
def bootEvents (m : Byte) (banks : Vector Byte 8) (mm ww nn : Byte) : List Event :=
  [.write 0xE000#16 0#8] ++
    (List.finRange 8).flatMap (fun k => bankEvents (m ||| BitVec.ofNat 8 k.val) banks[k]) ++
    [.write 0xA000#16 mm, .write 0xA001#16 ww, .write 0xC000#16 nn, .write 0xC001#16 0#8, .write 0xE001#16 0#8]

end Sys2Proof.Claims

open Sys2Proof Sys2Proof.Machine Sys2Proof.Claims

/-! ## Encoding and stepping -/

/-- 30_encoding.md R94 with the words of 95_test_vectors.md B1: the vectors' words decode to the operations they stand for,
on both variants where the row has two. -/
def Obligations.VectorWordsDecode : Prop :=
  decode .mmc3 (.regw 0x800006#24) = .ok (.select 0x06#8) ∧
  decode .mmc3 (.regw 0x9FFE06#24) = .ok (.select 0x06#8) ∧
  decode .mmc6 (.regw 0x9FFF03#24) = .ok (.data 0x03#8) ∧
  decode .mmc3 (.regw 0xA00001#24) = .ok (.mirror 0x01#8) ∧
  decode .mmc3 (.regw 0xBFFF80#24) = .ok (.wramctlMmc3 0x80#8) ∧
  decode .mmc6 (.regw 0xBFFF80#24) = .ok (.wramctlMmc6 0x80#8) ∧
  decode .mmc3 (.regw 0xC00014#24) = .ok (.irqlatch 0x14#8) ∧
  decode .mmc3 (.regw 0xDFFF00#24) = .ok (.irqreload 0x00#8) ∧
  decode .mmc3 (.regw 0xE00000#24) = .ok (.irqdis 0x00#8) ∧
  decode .mmc3 (.regw 0xFFFF00#24) = .ok (.irqen 0x00#8) ∧
  decode .mmc3 (.regw 0x7FFF55#24) = .error (.noPattern 0x6001#16) ∧
  decode .mmc3 (.regw 0x410055#24) = .error (.noPattern 0x4000#16)

/-- 30_encoding.md R93, R94: the row a register write reaches is decided by A15, A14, A13 and A0 of its address, for every
address and byte; without A15 it reaches none. -/
def Obligations.RegisterRowByAddressLines : Prop :=
  ∀ (v : Variant) (a : BitVec 16) (x : Byte),
    (a.getLsbD 15 = false → decode v (.write a x) = .error (.noPattern (a &&& 0xE001#16))) ∧
    (a.getLsbD 15 = true →
      decode v (.write a x) = .ok
        (match a.getLsbD 14, a.getLsbD 13, a.getLsbD 0 with
          | false, false, false => .select x
          | false, false, true => .data x
          | false, true, false => .mirror x
          | false, true, true => (match v with | .mmc3 => .wramctlMmc3 x | .mmc6 => .wramctlMmc6 x)
          | true, false, false => .irqlatch x
          | true, false, true => .irqreload x
          | true, true, false => .irqdis x
          | true, true, true => .irqen x))

/-- Decode and encode agree on every well-formed instruction of a cartridge (30_encoding.md R90, R91, R94, R106). -/
def Obligations.DecodeEncode : Prop :=
  ∀ (c : Config) (i : Instr), WellFormed c i = true → decode c.variant (encode i) = .ok i

/-- Decoding drops nothing but the ignored address lines A12 to A1 (30_encoding.md R93, R105): the encoding of what an event
decodes to is that event, up to those lines of a register write. That the encoder writes them as 0 is the model's choice
(log 27), and the mask is the spec's adopted number (log 10). -/
def Obligations.DecodeDropsOnlyIgnoredLines : Prop :=
  ∀ (v : Variant) (e : Event) (i : Instr), decode v e = .ok i →
    (∀ w, e = .regw w → ∃ w', encode i = .regw w' ∧ w' = w &&& 0xE001FF#24) ∧
    ((∀ w, e ≠ .regw w) → encode i = e)

/-- 30_encoding.md R107: reading the line an event is printed as gives the event back. The digits' case and the printing of
a blob are the model's choice (log 22). -/
def Obligations.TraceRoundTrip : Prop := ∀ e : Event, readLine (printLine e) = .ok e

/-- A step runs the decoded instruction: the oldest operation of the input, on the state it has been taken from
(00_scope.md R16, 20_memory.md R68). That the operations stand in `input` is the model's form (log 4). -/
def Obligations.StepRunsDecoded : Prop :=
  ∀ (s : State) (e : Event) (rest : List Event) (i : Instr),
    s.input = e :: rest → decode s.cfg.variant e = .ok i → step s = exec i { s with input := rest }

/-- 30_encoding.md R105: a register write below 0x8000, whose masked address matches no pattern, has no effect on any state;
the step only takes it from the input. -/
def Obligations.UnmatchedWriteHasNoEffect : Prop :=
  ∀ (s : State) (a : BitVec 16) (x : Byte) (rest : List Event),
    a.toNat < 0x8000 → s.input = .write a x :: rest →
      step s = .next { s with input := rest, returned := .void }

/-- 00_scope.md R15: every operation is total, it ends in a next state whatever the state and the operands; and the one failure,
RestoreFailure, is raised by RESTORE alone. -/
def Obligations.EveryOperationIsTotal : Prop :=
  (∀ (i : Instr) (s : State), ∃ t, exec i s = .next t) ∧
  (∀ (i : Instr) (s t : State) (b : List Byte),
    exec i s = .next t → t.returned = .restoreFailure b → i = .restore b)

/-- A step stops only where the host's sequence of operations ends; the fault that says so is the model's (00_scope.md R16,
log 4). -/
def Obligations.StepStopsOnlyAtEndOfInput : Prop :=
  ∀ s : State, (s.input ≠ [] → ∃ t, step s = .next t) ∧ (s.input = [] → step s = .fault .noOperation)

/-! ## Reset -/

/-- 44_system_ops.md R220, 10_state.md R38: RESET gives every field its power-on byte with the mask of the table, deasserts
the line, and leaves cfg and the stores alone. -/
def Obligations.ResetTakesPowerOnBytes : Prop :=
  ∀ s : State, ∃ t, exec .reset s = .next t ∧
    (let p := s.cfg.powerOn
     t.regs.bank = #v[p.bank0 &&& 0xFE#8, p.bank1 &&& 0xFE#8, p.bank2, p.bank3, p.bank4, p.bank5, p.bank6, p.bank7] ∧
     t.regs.sel = p.sel.extractLsb' 0 3 ∧
     t.regs.prgMode = p.prgMode.getLsbD 0 ∧ t.regs.chrMode = p.chrMode.getLsbD 0 ∧ t.regs.mirr = p.mirr.getLsbD 0 ∧
     t.regs.wramEn = p.wramEn.getLsbD 0 ∧ t.regs.wramWp = p.wramWp.getLsbD 0 ∧
     t.regs.h0r = p.h0r.getLsbD 0 ∧ t.regs.h0w = p.h0w.getLsbD 0 ∧
     t.regs.h1r = p.h1r.getLsbD 0 ∧ t.regs.h1w = p.h1w.getLsbD 0 ∧
     t.regs.irqLatch = p.irqLatch ∧ t.regs.irqCount = p.irqCount ∧
     t.regs.irqReload = p.irqReload.getLsbD 0 ∧ t.regs.irqEn = p.irqEn.getLsbD 0 ∧
     t.regs.ewLast = p.ewLast.getLsbD 0 ∧
     (∀ f, s.cfg.frameCycles = some f → 0 < f → t.regs.ewStamp = p.ewStamp.toNat % f) ∧
     (s.cfg.frameCycles = none → t.regs.ewStamp = p.ewStamp.toNat)) ∧
    t.irqLine = false ∧ SameBytes s t ∧ SameRest s t ∧ t.returned = .void

/-- 70_reset_and_hazards.md R273: what reset makes certain whatever the generator returns. The cleared line and the cleared
bit 0 of bank[0] and bank[1] are the spec's decision D12 (log 16), the page from the end its decision D8 (log 26). -/
def Obligations.ResetCertainties : Prop :=
  ∀ (s t : State), exec .reset s = .next t →
    t.irqLine = false ∧ t.regs.bank[0].getLsbD 0 = false ∧ t.regs.bank[1].getLsbD 0 = false ∧
    (∀ n, s.cfg.prgPages = n → 0 < n → (prgEntry t.cfg t.regs 3).page = some (n - 1)) ∧
    (∀ n, s.cfg.prgPages = n → 2 ≤ n →
      (prgEntry t.cfg t.regs (if t.regs.prgMode then 0 else 2)).page = some (n - 2))

/-- 10_state.md R23, R34, R38: the state right after reset keeps the invariant, on every well-formed cartridge with canonical
stores of its sizes; and so does State.reset. The even bank[0] and bank[1] and the reduced stamp after reset are the spec's
decision D12 (log 16); the cartridge, the power-on bytes and the empty stores of State.reset are the model's choice (logs 1,
2 and 3). -/
def Obligations.ResetStateInv : Prop :=
  State.reset.Inv ∧
  ∀ (c : Config) (prg chr wram : Memory), c.wf = true →
    (prg.wf ∧ prg.within (c.prgPages * 0x2000)) → (chr.wf ∧ chr.within (c.chrPages * 0x400)) →
    (wram.wf ∧ wram.within c.wramSize) → (State.afterReset c prg chr wram).Inv

/-! ## The register writes -/

/-- 41_register_writes.md R150: SELECT latches the index and the two mode bits; a change of chr_mode moves all eight CHR
windows, a change of prg_mode swaps PRG windows 0 and 2. That the CHR windows move by an exchange of the two halves of the
list with the order inside each kept is R160 by the spec's decision D29 (log 26). -/
def Obligations.SelectLatchesIndexAndModes : Prop :=
  ∀ (x : Byte) (s : State), ∃ t, exec (.select x) s = .next t ∧
    t.regs.sel = x.extractLsb' 0 3 ∧ t.regs.chrMode = x.getLsbD 7 ∧ t.regs.prgMode = x.getLsbD 6 ∧
    t.regs = { s.regs with sel := t.regs.sel, chrMode := t.regs.chrMode, prgMode := t.regs.prgMode } ∧
    (t.regs.chrMode ≠ s.regs.chrMode → ∀ k : Fin 8, chrEntry t.cfg t.regs k = chrEntry s.cfg s.regs (k + 4)) ∧
    (t.regs.prgMode ≠ s.regs.prgMode →
      prgEntry t.cfg t.regs 0 = prgEntry s.cfg s.regs 2 ∧ prgEntry t.cfg t.regs 2 = prgEntry s.cfg s.regs 0) ∧
    RegisterWriteFrame s t ∧ WrittenAt 0x8000#16 x (.select x)

/-- 41_register_writes.md R151: DATA writes the selected bank register, bit 0 forced to 0 for the indexes 0 and 1, and no
other register; the index is not advanced. -/
def Obligations.DataWritesSelectedBank : Prop :=
  ∀ (x : Byte) (s : State), ∃ t, exec (.data x) s = .next t ∧
    (s.regs.sel.toNat ≤ 1 → t.regs.bank[s.regs.sel.toNat]'(s.regs.sel.isLt) = x &&& 0xFE#8) ∧
    (2 ≤ s.regs.sel.toNat → t.regs.bank[s.regs.sel.toNat]'(s.regs.sel.isLt) = x) ∧
    (∀ k : Fin 8, k.val ≠ s.regs.sel.toNat → t.regs.bank[k] = s.regs.bank[k]) ∧
    t.regs = { s.regs with bank := t.regs.bank } ∧
    RegisterWriteFrame s t ∧ WrittenAt 0x8001#16 x (.data x)

/-- 41_register_writes.md R152: MIRROR updates the mirroring bit, and no window. The bit's position and polarity are the
spec's adopted ones (log 11). -/
def Obligations.MirrorChangesMirroringOnly : Prop :=
  ∀ (x : Byte) (s : State), ∃ t, exec (.mirror x) s = .next t ∧
    t.regs.mirr = x.getLsbD 0 ∧ t.regs = { s.regs with mirr := t.regs.mirr } ∧
    (∀ k, chrEntry t.cfg t.regs k = chrEntry s.cfg s.regs k) ∧ (∀ k, prgEntry t.cfg t.regs k = prgEntry s.cfg s.regs k) ∧
    (s.cfg.fourScreen = true → mirroring t.cfg t.regs = .fourScreen) ∧
    (s.cfg.fourScreen = false → mirroring t.cfg t.regs = if x.getLsbD 0 then .horizontal else .vertical) ∧
    RegisterWriteFrame s t ∧ WrittenAt 0xA000#16 x (.mirror x)

/-- 41_register_writes.md R153 with R162: WRAMCTL on an MMC3. The bit positions are the spec's adopted ones (log 11). -/
def Obligations.WramctlMmc3SetsLowPermission : Prop :=
  ∀ (x : Byte) (s : State), s.cfg.variant = .mmc3 → ∃ t, exec (.wramctlMmc3 x) s = .next t ∧
    t.regs.wramEn = x.getLsbD 7 ∧ t.regs.wramWp = x.getLsbD 6 ∧
    t.regs = { s.regs with wramEn := t.regs.wramEn, wramWp := t.regs.wramWp } ∧
    lowPerm t.cfg t.regs =
      (if s.cfg.wramSize ≠ 0 ∧ x.getLsbD 7 = true then (if x.getLsbD 6 then Perm.r else Perm.rw) else Perm.none) ∧
    RegisterWriteFrame s t

/-- 41_register_writes.md R154 with R163: WRAMCTL on an MMC6; the single-flag path is neither written nor read. The bit
positions are the spec's adopted ones (log 11). -/
def Obligations.WramctlMmc6SetsHalfPermissions : Prop :=
  ∀ (x : Byte) (s : State), s.cfg.variant = .mmc6 → ∃ t, exec (.wramctlMmc6 x) s = .next t ∧
    t.regs.h1r = x.getLsbD 7 ∧ t.regs.h1w = x.getLsbD 6 ∧ t.regs.h0r = x.getLsbD 5 ∧ t.regs.h0w = x.getLsbD 4 ∧
    t.regs = { s.regs with h1r := t.regs.h1r, h1w := t.regs.h1w, h0r := t.regs.h0r, h0w := t.regs.h0w } ∧
    (s.cfg.wramSize ≠ 0 →
      (canRead (lowPermHalf t.cfg t.regs .h0) = x.getLsbD 5 ∧ canWrite (lowPermHalf t.cfg t.regs .h0) = x.getLsbD 4) ∧
      (canRead (lowPermHalf t.cfg t.regs .h1) = x.getLsbD 7 ∧ canWrite (lowPermHalf t.cfg t.regs .h1) = x.getLsbD 6)) ∧
    (s.cfg.wramSize = 0 → ∀ h, lowPermHalf t.cfg t.regs h = .none) ∧
    RegisterWriteFrame s t

/-- 41_register_writes.md R155, 30_encoding.md R100: IRQLATCH stores the reload value, and the counter is not changed; the
new value is what the next reload copies. -/
def Obligations.IrqlatchStoresReloadValue : Prop :=
  ∀ (x : Byte) (s : State), ∃ t, exec (.irqlatch x) s = .next t ∧
    t.regs.irqLatch = x ∧ t.regs = { s.regs with irqLatch := t.regs.irqLatch } ∧ RegisterWriteFrame s t ∧
    (s.regs.irqCount = 0#8 ∨ s.regs.irqReload = true → (clockIrq t).regs.irqCount = x) ∧
    WrittenAt 0xC000#16 x (.irqlatch x)

/-- 41_register_writes.md R156: IRQRELOAD zeroes the counter and sets the pending flag, whatever the byte; a second one
changes nothing more; the reload happens at the next Rise. -/
def Obligations.IrqreloadZeroesCounter : Prop :=
  ∀ (x y : Byte) (s : State), ∃ t, exec (.irqreload x) s = .next t ∧
    t.regs.irqCount = 0#8 ∧ t.regs.irqReload = true ∧
    t.regs = { s.regs with irqCount := t.regs.irqCount, irqReload := t.regs.irqReload } ∧
    RegisterWriteFrame s t ∧ exec (.irqreload y) t = .next t ∧
    (clockIrq t).regs.irqCount = s.regs.irqLatch ∧ WrittenAt 0xC001#16 x (.irqreload x)

/-- 41_register_writes.md R157: IRQDIS clears the enable and the line, whatever the byte, and touches neither the counter
nor the reload value nor the pending flag; a second one changes nothing more. -/
def Obligations.IrqdisAcknowledges : Prop :=
  ∀ (x y : Byte) (s : State), ∃ t, exec (.irqdis x) s = .next t ∧
    t.regs.irqEn = false ∧ t.irqLine = false ∧ t.regs = { s.regs with irqEn := t.regs.irqEn } ∧
    SameBytes s t ∧ SameRest s t ∧ t.returned = .void ∧ exec (.irqdis y) t = .next t ∧
    WrittenAt 0xE000#16 x (.irqdis x)

/-- 41_register_writes.md R158: IRQEN sets the enable, whatever the byte; it does not assert the line, even when the count
is 0, and does not clear it. -/
def Obligations.IrqenSetsEnableOnly : Prop :=
  ∀ (x : Byte) (s : State), ∃ t, exec (.irqen x) s = .next t ∧
    t.regs.irqEn = true ∧ t.regs = { s.regs with irqEn := t.regs.irqEn } ∧ RegisterWriteFrame s t ∧
    WrittenAt 0xE001#16 x (.irqen x)

/-! ## The windows -/

/-- 41_register_writes.md R160, 20_memory.md R57, R58: the pages of the eight CHR windows, in both modes, on a store of n
pages. The order inside mode 1 is the spec's decision D29 (log 26). -/
def Obligations.ChrWindowPages : Prop :=
  ∀ (c : Config) (r : Regs), r.valid c = true → 0 < c.chrPages →
    (let b := fun k : Fin 8 => r.bank[k].toNat
     let n := c.chrPages
     let pairs := [b 0 % n, (b 0 + 1) % n, b 1 % n, (b 1 + 1) % n]
     let singles := [b 2 % n, b 3 % n, b 4 % n, b 5 % n]
     let pages := if r.chrMode then singles ++ pairs else pairs ++ singles
     ∀ k : Fin 8, (chrEntry c r k).page = pages[k.val]?)

/-- 41_register_writes.md R161: the pages of the four PRG windows, in both modes, on a store of n pages. With one page, n - 2 and
n - 1 are both 0, that page (20_memory.md R58, the spec's decision D8, log 26). -/
def Obligations.PrgWindowPages : Prop :=
  ∀ (c : Config) (r : Regs), 0 < c.prgPages →
    (let n := c.prgPages
     let b6 := r.bank[6].toNat % n
     let b7 := r.bank[7].toNat % n
     let pages := if r.prgMode then [n - 2, b7, b6, n - 1] else [b6, b7, n - 2, n - 1]
     ∀ k : Fin 4, (prgEntry c r k).page = pages[k.val]?)

/-- 20_memory.md R55 to R58: a window of a store without pages is absent and has permission NONE; every other PRG window is
read only, every other CHR window has cfg.chr_perm. -/
def Obligations.WindowPermissions : Prop :=
  ∀ (c : Config) (r : Regs),
    (∀ k, prgEntry c r k = if c.prgPages = 0 then { page := none, perm := .none }
      else { page := (prgEntry c r k).page, perm := .r }) ∧
    (∀ k, chrEntry c r k = if c.chrPages = 0 then { page := none, perm := .none }
      else { page := (chrEntry c r k).page, perm := c.chrPerm })

/-- 41_register_writes.md R162, R163: the low window's permission on an MMC3, and of each half on an MMC6. -/
def Obligations.LowWindowPermissions : Prop :=
  ∀ (c : Config) (r : Regs),
    (lowPerm c r ≠ .none ↔ (c.wramSize ≠ 0 ∧ r.wramEn = true)) ∧
    (lowPerm c r ≠ .none → lowPerm c r = if r.wramWp then .r else .rw) ∧
    (lowPerm c r ≠ .w) ∧
    (c.wramSize = 0 → ∀ h, lowPermHalf c r h = .none) ∧
    (c.wramSize ≠ 0 →
      canRead (lowPermHalf c r .h0) = r.h0r ∧ canWrite (lowPermHalf c r .h0) = r.h0w ∧
      canRead (lowPermHalf c r .h1) = r.h1r ∧ canWrite (lowPermHalf c r .h1) = r.h1w)

/-- 20_memory.md R58, R59, 43_memory_access.md R203: no access reaches a byte outside its store, whatever the registers and
the address. The reduction of an MMC3's WRAM offset is the spec's decision D25 (log 26); that of an offset of a table map is
the model's choice (log 13), without which the last clause would fail. -/
def Obligations.TargetsInsideStores : Prop :=
  ∀ (c : Config) (r : Regs) (a off : Nat) (p : Perm),
    (prgTarget c r a = some (p, off) → off < c.prgPages * 0x2000) ∧
    (chrTarget c r a = some (p, off) → off < c.chrPages * 0x400) ∧
    (lowTarget c r a = some (p, off) → p ≠ .none → off < c.wramSize)

/-- 20_memory.md R62, the three forms of cfg.low_half_map on an MMC6. HALF_MMC6: the 1 KB store is seen four times in 0x7000 to
0x7FFF, half 0 its first 512 bytes, half 1 its second; 0x6000 to 0x6FFF is outside. HALF_LITERAL: the window is split at
0x7000 and the offset counts from 0x6000. A table: entry k is the image of the address 0x6000 + k, and an absent or empty
entry is outside. The numbers are the spec's adopted ones (log 10, D7); the table form and the reduction of its offsets are
the model's choice (log 13). -/
def Obligations.LowHalfMapForms : Prop :=
  ∀ (c : Config) (r : Regs), c.variant = .mmc6 →
    (c.lowHalfMap = .halfMmc6 →
      (∀ k, k < 0x1000 → lowHalfMap c (0x6000 + k) = none ∧ ReachesNothing c r (0x6000 + k)) ∧
      (∀ j k, j < 4 → k < 0x400 →
        lowTarget c r (0x7000 + j * 0x400 + k) =
          some (lowPermHalf c r (if k < 0x200 then .h0 else .h1), k % c.wramSize))) ∧
    (c.lowHalfMap = .halfLiteral →
      (∀ k, k < 0x1000 → lowTarget c r (0x6000 + k) = some (lowPermHalf c r .h0, k % c.wramSize)) ∧
      (∀ k, k < 0x1000 → lowTarget c r (0x7000 + k) = some (lowPermHalf c r .h1, (0x1000 + k) % c.wramSize)) ∧
      lowHalfMap c 0x6FFF = some (.h0, 0x0FFF % c.wramSize) ∧ lowHalfMap c 0x7000 = some (.h1, 0x1000 % c.wramSize)) ∧
    (∀ entries, c.lowHalfMap = .table entries → ∀ k, k < 0x2000 →
      (∀ h off, entries[k]? = some (some (h, off)) →
        lowHalfMap c (0x6000 + k) = some (h, off % c.wramSize) ∧
        lowTarget c r (0x6000 + k) = some (lowPermHalf c r h, off % c.wramSize)) ∧
      (entries[k]? = some none ∨ entries[k]? = none →
        lowHalfMap c (0x6000 + k) = none ∧ ReachesNothing c r (0x6000 + k)))

/-- 20_memory.md R69: a PRG read right after a SELECT reflects the new mode, for every selected byte, in-window offset and
store of at least two pages. -/
def Obligations.NextReadSeesNewMode : Prop :=
  ∀ (s : State) (x : Byte) (o : Nat), 2 ≤ s.cfg.prgPages → o < 0x2000 →
    ∃ t u w, exec (.select x) s = .next t ∧ exec (.prgrd (0x8000 + o)) t = .next u ∧ exec (.prgrd (0xC000 + o)) t = .next w ∧
      (let n := s.cfg.prgPages
       let b6 := s.regs.bank[6].toNat % n
       u.returned = .byte (s.memRead .prg ((if x.getLsbD 6 then n - 2 else b6) * 0x2000 + o)) ∧
       w.returned = .byte (s.memRead .prg ((if x.getLsbD 6 then b6 else n - 2) * 0x2000 + o)))

/-! ## The window-gated accesses -/

/-- 43_memory_access.md R204: PRGRD returns the byte of the window's page at the in-window offset when there are pages; else,
and outside the windows (30_encoding.md R103, the spec's decision D23, log 19), a draw. -/
def Obligations.PrgrdReturnsWindowByte : Prop :=
  ∀ (s : State) (a : Nat), ∃ t, exec (.prgrd a) s = .next t ∧
    (∀ (k : Fin 4) (o p : Nat), a = 0x8000 + k.val * 0x2000 + o → o < 0x2000 → (prgEntry s.cfg s.regs k).page = some p →
      ReturnsByteAt .prg (p * 0x2000 + o) s t) ∧
    (s.cfg.prgPages = 0 ∨ a < 0x8000 ∨ 0x10000 ≤ a → ReturnsDraw s t)

/-- 43_memory_access.md R205: CHRRD, likewise, with cfg.chr_perm; outside the windows a draw (30_encoding.md R103, the spec's
decision D23, log 19). -/
def Obligations.ChrrdReturnsWindowByte : Prop :=
  ∀ (s : State) (v : Nat), ∃ t, exec (.chrrd v) s = .next t ∧
    (∀ (k : Fin 8) (o p : Nat), v = k.val * 0x400 + o → o < 0x400 → canRead s.cfg.chrPerm = true →
      (chrEntry s.cfg s.regs k).page = some p → ReturnsByteAt .chr (p * 0x400 + o) s t) ∧
    (s.cfg.chrPages = 0 ∨ canRead s.cfg.chrPerm = false ∨ 0x2000 ≤ v → ReturnsDraw s t)

/-- 43_memory_access.md R206: CHRWR stores one byte where the window's permission can write, computed by `chrTarget` as the
meaning computes it; else the byte is silently dropped (20_memory.md R60). That a write at 0x2000 and above is dropped is
30_encoding.md R103 by the spec's decision D23 (log 19). -/
def Obligations.ChrwrStoresOrDrops : Prop :=
  ∀ (s : State) (v : Nat) (x : Byte), ∃ t, exec (.chrwr v x) s = .next t ∧
    (∀ off, writable (chrTarget s.cfg s.regs v) = some off → StoresByteAt .chr off x s t) ∧
    (writable (chrTarget s.cfg s.regs v) = none → Dropped s t) ∧
    (∀ (k : Fin 8) (o p : Nat), v = k.val * 0x400 + o → o < 0x400 → canWrite s.cfg.chrPerm = true →
      (chrEntry s.cfg s.regs k).page = some p → writable (chrTarget s.cfg s.regs v) = some (p * 0x400 + o)) ∧
    (s.cfg.chrPages = 0 ∨ canWrite s.cfg.chrPerm = false ∨ 0x2000 ≤ v → writable (chrTarget s.cfg s.regs v) = none)

/-- 43_memory_access.md R201, R203, 20_memory.md R61: WRAMRD on an MMC3: the byte when the store exists and is enabled, else a
draw. The offset's reduction is the spec's decision (log 26). -/
def Obligations.WramrdMmc3 : Prop :=
  ∀ (s : State) (o : Nat), s.cfg.variant = .mmc3 → o < 0x2000 → ∃ t, exec (.wramrd (0x6000 + o)) s = .next t ∧
    (s.cfg.wramSize ≠ 0 ∧ s.regs.wramEn = true → ReturnsByteAt .wram (o % s.cfg.wramSize) s t) ∧
    (s.cfg.wramSize = 0 ∨ s.regs.wramEn = false → ReturnsDraw s t)

/-- 43_memory_access.md R201, R203, 20_memory.md R62: WRAMRD on an MMC6: each half by its own read bit, for every half map. -/
def Obligations.WramrdMmc6 : Prop :=
  ∀ (s : State) (o : Nat), s.cfg.variant = .mmc6 → o < 0x2000 → ∃ t, exec (.wramrd (0x6000 + o)) s = .next t ∧
    (lowHalfMap s.cfg (0x6000 + o) = none → ReturnsDraw s t) ∧
    (∀ h off, lowHalfMap s.cfg (0x6000 + o) = some (h, off) →
      (let bit := match h with | .h0 => s.regs.h0r | .h1 => s.regs.h1r
       (s.cfg.wramSize ≠ 0 ∧ bit = true → ReturnsByteAt .wram off s t) ∧
       (s.cfg.wramSize = 0 ∨ bit = false → ReturnsDraw s t)))

/-- 43_memory_access.md R202, R203, 20_memory.md R61: WRAMWR on an MMC3: stored when the store exists, is enabled and is not
protected, else silently dropped. -/
def Obligations.WramwrMmc3 : Prop :=
  ∀ (s : State) (o : Nat) (x : Byte), s.cfg.variant = .mmc3 → o < 0x2000 →
    ∃ t, exec (.wramwr (0x6000 + o) x) s = .next t ∧
    (∀ off, writable (lowTarget s.cfg s.regs (0x6000 + o)) = some off →
      off = o % s.cfg.wramSize ∧ StoresByteAt .wram off x s t) ∧
    (writable (lowTarget s.cfg s.regs (0x6000 + o)) = none → Dropped s t) ∧
    ((writable (lowTarget s.cfg s.regs (0x6000 + o))).isSome =
      (decide (s.cfg.wramSize ≠ 0) && s.regs.wramEn && !s.regs.wramWp))

/-- 43_memory_access.md R202, R203, 20_memory.md R62: WRAMWR on an MMC6: each half by its own write bit, for every half map. -/
def Obligations.WramwrMmc6 : Prop :=
  ∀ (s : State) (o : Nat) (x : Byte), s.cfg.variant = .mmc6 → o < 0x2000 →
    ∃ t, exec (.wramwr (0x6000 + o) x) s = .next t ∧
    (∀ off, writable (lowTarget s.cfg s.regs (0x6000 + o)) = some off → StoresByteAt .wram off x s t) ∧
    (writable (lowTarget s.cfg s.regs (0x6000 + o)) = none → Dropped s t) ∧
    (lowHalfMap s.cfg (0x6000 + o) = none → writable (lowTarget s.cfg s.regs (0x6000 + o)) = none) ∧
    (∀ h off, lowHalfMap s.cfg (0x6000 + o) = some (h, off) →
      (let bit := match h with | .h0 => s.regs.h0w | .h1 => s.regs.h1w
       writable (lowTarget s.cfg s.regs (0x6000 + o)) = if s.cfg.wramSize ≠ 0 ∧ bit = true then some off else none))

/-- 30_encoding.md R103, 92_eei_decisions.md D23: an access outside its window reads a draw and writes nothing. -/
def Obligations.OutOfWindowAccesses : Prop :=
  ∀ (s : State) (a : Nat) (x : Byte),
    (a < 0x6000 ∨ 0x8000 ≤ a →
      (∃ t, exec (.wramrd a) s = .next t ∧ ReturnsDraw s t) ∧ (∃ t, exec (.wramwr a x) s = .next t ∧ Dropped s t)) ∧
    (a < 0x8000 ∨ 0x10000 ≤ a → ∃ t, exec (.prgrd a) s = .next t ∧ ReturnsDraw s t) ∧
    (0x2000 ≤ a →
      (∃ t, exec (.chrrd a) s = .next t ∧ ReturnsDraw s t) ∧ (∃ t, exec (.chrwr a x) s = .next t ∧ Dropped s t))

/-! ## The edge watcher and the counter -/

/-- 40_edge_watcher.md R123: a notification that is not an accepted Rise. None changes nothing; a Fall stores the bit and the
frame position, and clocks nothing. -/
def Obligations.NotifyWithoutRise : Prop :=
  ∀ (s : State) (a c : Nat),
    (a.testBit 12 = s.regs.ewLast ∨ debounceOk s.cfg s.regs.ewLast s.regs.ewStamp (a.testBit 12) c = false →
      exec (.notify a c) s = .next { s with returned := .void }) ∧
    (a.testBit 12 = false → s.regs.ewLast = true → debounceOk s.cfg true s.regs.ewStamp false c = true →
      exec (.notify a c) s =
        .next { s with regs := { s.regs with ewLast := false, ewStamp := c }, returned := .void })

/-- 42_irq_counter.md R181, R182, R184, R185: the whole clock: reload when the count is 0 or a reload is pending, else
decrement, both tests on the values before the update; the line is set under the revision's policy, and else kept; the
pending flag is cleared whichever policy fired; nothing else changes. -/
def Obligations.ClockIrqAlgorithm : Prop :=
  ∀ s : State,
    (let t := clockIrq s
     let prev := s.regs.irqCount
     let pending := s.regs.irqReload
     (prev = 0#8 ∨ pending = true → t.regs.irqCount = s.regs.irqLatch) ∧
     (prev ≠ 0#8 → pending = false → t.regs.irqCount.toNat + 1 = prev.toNat) ∧
     (s.cfg.revision = .revB →
       t.irqLine = (s.irqLine || decide (t.regs.irqCount = 0#8) && s.regs.irqEn)) ∧
     (s.cfg.revision = .revA →
       t.irqLine = (s.irqLine ||
         decide (t.regs.irqCount = 0#8) && s.regs.irqEn && (!decide (prev = 0#8) || pending))) ∧
     t.regs = { s.regs with irqCount := t.regs.irqCount, irqReload := false } ∧
     SameBytes s t ∧ SameRest s t ∧ t.returned = s.returned)

/-- 40_edge_watcher.md R121, R123, 42_irq_counter.md R181: an accepted Rise stores the bit and the position and clocks the counter once: reload when
the count is 0 or a reload is pending, else decrement; the pending flag is cleared; the line is set under the revision's
policy, and never cleared. -/
def Obligations.NotifyRiseClocksCounter : Prop :=
  ∀ (s : State) (a c : Nat), a.testBit 12 = true → s.regs.ewLast = false →
    debounceOk s.cfg false s.regs.ewStamp true c = true → ∃ t, exec (.notify a c) s = .next t ∧
    (let prev := s.regs.irqCount
     let pending := s.regs.irqReload
     (prev = 0#8 ∨ pending = true → t.regs.irqCount = s.regs.irqLatch) ∧
     (prev ≠ 0#8 → pending = false → t.regs.irqCount.toNat = prev.toNat - 1) ∧
     (s.cfg.revision = .revB →
       t.irqLine = (s.irqLine || decide (t.regs.irqCount = 0#8) && s.regs.irqEn)) ∧
     (s.cfg.revision = .revA →
       t.irqLine = (s.irqLine ||
         decide (t.regs.irqCount = 0#8) && s.regs.irqEn && (!decide (prev = 0#8) || pending)))) ∧
    t.regs = { s.regs with
      ewLast := true, ewStamp := c, irqCount := t.regs.irqCount, irqReload := false } ∧
    SameBytes s t ∧ SameRest s t ∧ t.returned = .void

/-- 30_encoding.md R102, 40_edge_watcher.md R122: of NOTIFY's address only bit 12 is read. -/
def Obligations.NotifyReadsBit12Only : Prop :=
  ∀ (s : State) (a b c : Nat), a.testBit 12 = b.testBit 12 → exec (.notify a c) s = exec (.notify b c) s

/-- 40_edge_watcher.md R126, R128: elapsed inside a frame of f cycles, across the wrap, and DEB_GAP's acceptance. -/
def Obligations.DebGapElapsed : Prop :=
  ∀ (c : Config) (s x : Nat),
    (∀ f, c.frameCycles = some f → s < f → x < f → elapsed c s x = if s ≤ x then x - s else x + f - s) ∧
    (c.frameCycles = none → s ≤ x → elapsed c s x = x - s) ∧
    (c.debounce = .gap → ∀ last b, debounceOk c last s b x = decide (c.debounceCycles ≤ elapsed c s x))

/-- 42_irq_counter.md R188: the matrix of the assertion condition under both policies, and that they differ in exactly one cell
of it. -/
def Obligations.RevisionMatrix : Prop :=
  ∀ (c : Config) (r : Regs),
    (let zeroNow := if r.irqCount ≠ 0#8 ∧ r.irqReload = false then decide (r.irqCount = 1#8) else decide (r.irqLatch = 0#8)
     (c.revision = .revB → clockFires c r = (r.irqEn && zeroNow)) ∧
     (c.revision = .revA → clockFires c r =
       (r.irqEn && zeroNow && !(decide (r.irqCount = 0#8) && !r.irqReload)))) ∧
    (clockFires { c with revision := .revA } r ≠ clockFires { c with revision := .revB } r ↔
      (r.irqCount = 0#8 ∧ r.irqReload = false ∧ r.irqLatch = 0#8 ∧ r.irqEn = true))

/-- 42_irq_counter.md R189, N > 0: from a state just after IRQRELOAD, with the enable set, the k+1-th Rise leaves the count
N - (k mod (N+1)) and meets the assertion condition exactly when k mod (N+1) = N, under both revisions; so the line is
first set by Rise N+1 and the condition recurs every N+1 Rises. -/
def Obligations.CounterPeriod : Prop :=
  ∀ (s : State), 0 < s.regs.irqLatch.toNat → s.regs.irqCount = 0#8 → s.regs.irqReload = true → s.regs.irqEn = true →
    ∀ k : Nat,
      (clockIrq^[k + 1] s).regs.irqCount.toNat =
        s.regs.irqLatch.toNat - k % (s.regs.irqLatch.toNat + 1) ∧
      clockFires s.cfg (clockIrq^[k] s).regs = decide (k % (s.regs.irqLatch.toNat + 1) = s.regs.irqLatch.toNat) ∧
      (clockIrq^[k] s).irqLine = (s.irqLine || decide (s.regs.irqLatch.toNat + 1 ≤ k))

/-- 42_irq_counter.md R189, N = 0: from a state just after IRQRELOAD, with the enable set, every Rise reloads to 0; under
Revision B every Rise meets the assertion condition, under Revision A the first alone. -/
def Obligations.CounterWithZeroReload : Prop :=
  ∀ (s : State), s.regs.irqLatch = 0#8 → s.regs.irqCount = 0#8 → s.regs.irqReload = true → s.regs.irqEn = true →
    ∀ k : Nat,
      (clockIrq^[k + 1] s).regs.irqCount = 0#8 ∧
      (s.cfg.revision = .revB → clockFires s.cfg (clockIrq^[k] s).regs = true) ∧
      (s.cfg.revision = .revA → clockFires s.cfg (clockIrq^[k] s).regs = decide (k = 0))

/-- 40_edge_watcher.md R127: in a run of any operations but RESET and RESTORE, under every debounce condition, the accepted
transitions alternate: no two neighbours of the list of Rises and Falls are equal. -/
def Obligations.AcceptedTransitionsAlternate : Prop :=
  ∀ (n : Nat) (s : State),
    (∀ e ∈ s.input, e ≠ .sys .reset ∧ ∀ b, e ≠ .sys (.restore b)) →
    ∀ (k : Nat) (x y : Edge),
      (runTransitions n s)[k]? = some x → (runTransitions n s)[k + 1]? = some y → x ≠ y

/-! ## Whole-machine rules -/

/-- 42_irq_counter.md R180, 60_exceptions.md R242, 41_register_writes.md R157: the line is set only by a NOTIFY that is an
accepted Rise, with the enable set and the count 0 after it; and cleared only by IRQDIS and RESET. That RESET clears it is
the spec's decision D12 (log 16). -/
def Obligations.LineChangesOnlyBy : Prop :=
  ∀ (i : Instr) (s t : State), exec i s = .next t →
    (s.irqLine = false → t.irqLine = true →
      ∃ a c, i = .notify a c ∧ classify s.cfg s.regs a c = .rise ∧ s.regs.irqEn = true ∧ t.regs.irqCount = 0#8) ∧
    (s.irqLine = true → t.irqLine = false → i = .reset ∨ ∃ x, i = .irqdis x)

/-- 42_irq_counter.md R187: once the line is 1 it stays 1 through any run without IRQDIS and RESET. -/
def Obligations.LineHeldOverRuns : Prop :=
  ∀ (n : Nat) (s t : State), run n s = .next t → s.irqLine = true →
    (∀ e ∈ s.input, decode s.cfg.variant e ≠ .ok .reset ∧ ∀ x, decode s.cfg.variant e ≠ .ok (.irqdis x)) →
    t.irqLine = true

/-- 00_scope.md R7, 43_memory_access.md R207: no step changes cfg or a byte of PRG. -/
def Obligations.NoStepChangesCfgOrPrg : Prop :=
  ∀ (s t : State), step s = .next t → t.cfg = s.cfg ∧ t.prg = s.prg

/-- 10_state.md R21, 43_memory_access.md R202, R206: a byte of CHR changes only by CHRWR, a byte of WRAM only by WRAMWR, and
then it is the byte the window resolves to and its permission lets through. -/
def Obligations.StoresChangedOnlyByTheirWrites : Prop :=
  ∀ (i : Instr) (s t : State) (a : Nat), exec i s = .next t →
    (t.memRead .chr a ≠ s.memRead .chr a →
      ∃ v x, i = .chrwr v x ∧ writable (chrTarget s.cfg s.regs v) = some a) ∧
    (t.memRead .wram a ≠ s.memRead .wram a →
      ∃ v x, i = .wramwr v x ∧ writable (lowTarget s.cfg s.regs v) = some a)

/-- 41_register_writes.md R140, 40_edge_watcher.md R120: the edge watcher's two fields change only by NOTIFY, RESET and
RESTORE; the counter and its pending flag only by those and IRQRELOAD. -/
def Obligations.WatcherAndCounterChangedOnlyBy : Prop :=
  ∀ (i : Instr) (s t : State), exec i s = .next t →
    (∀ a c, i ≠ .notify a c) → i ≠ .reset → (∀ b, i ≠ .restore b) →
    SameWatcher s.regs t.regs ∧
    ((∀ x, i ≠ .irqreload x) → t.regs.irqCount = s.regs.irqCount ∧ t.regs.irqReload = s.regs.irqReload)

/-- 10_state.md R28, R29: the control bits of the sub-variant that is not selected are never written after reset and never
read: changing them before an operation changes nothing else after it. RESET and RESTORE write every field; SNAPSHOT and
QUERY report every field. -/
def Obligations.InactiveVariantBitsAreInert : Prop :=
  ∀ (i : Instr) (s : State), i ≠ .reset → i ≠ .snapshot → i ≠ .query → (∀ b, i ≠ .restore b) →
    (s.cfg.variant = .mmc3 → ∀ a b c d, ∃ t, exec i s = .next t ∧
      exec i (withHalves a b c d s) = .next (withHalves a b c d t)) ∧
    (s.cfg.variant = .mmc6 → ∀ a b, ∃ t, exec i s = .next t ∧
      exec i (withFlags a b s) = .next (withFlags a b t))

/-- Every step keeps the invariant: cfg well formed, bank[0] and bank[1] even (10_state.md R23), the stamp inside the frame
(R34), the stores canonical and inside their sizes (20_memory.md R51, R58), the host's notifications inside the frame. -/
def Obligations.StepKeepsInv : Prop :=
  ∀ (s t : State), s.Inv → step s = .next t → t.Inv

/-- 70_reset_and_hazards.md R279: after the boot order, from every state, the registers of MapperState and IrqCounterState that
the cartridge's variant uses are what the written bytes say and the line is 0; the other variant's control bits, which no
register write reaches (10_state.md R28, R29, the spec's decision D27), and the edge watcher are as they were. Patterns and
bit positions are the spec's adopted ones (logs 10 and 11). -/
def Obligations.BootDeterminesRegisters : Prop :=
  ∀ (s : State) (m : Byte) (banks : Vector Byte 8) (mm ww nn : Byte), m &&& 0x3F#8 = 0#8 →
    ∃ t, run 22 { s with input := bootEvents m banks mm ww nn } = .next t ∧
      t.irqLine = false ∧ t.input = [] ∧
      t.regs.bank[0] = banks[0] &&& 0xFE#8 ∧ t.regs.bank[1] = banks[1] &&& 0xFE#8 ∧
      (∀ k : Fin 8, 2 ≤ k.val → t.regs.bank[k] = banks[k]) ∧
      t.regs.sel = 7#3 ∧ t.regs.chrMode = m.getLsbD 7 ∧ t.regs.prgMode = m.getLsbD 6 ∧ t.regs.mirr = mm.getLsbD 0 ∧
      (s.cfg.variant = .mmc3 → t.regs.wramEn = ww.getLsbD 7 ∧ t.regs.wramWp = ww.getLsbD 6 ∧
        t.regs.h0r = s.regs.h0r ∧ t.regs.h0w = s.regs.h0w ∧ t.regs.h1r = s.regs.h1r ∧ t.regs.h1w = s.regs.h1w) ∧
      (s.cfg.variant = .mmc6 → t.regs.h1r = ww.getLsbD 7 ∧ t.regs.h1w = ww.getLsbD 6 ∧ t.regs.h0r = ww.getLsbD 5 ∧
        t.regs.h0w = ww.getLsbD 4 ∧ t.regs.wramEn = s.regs.wramEn ∧ t.regs.wramWp = s.regs.wramWp) ∧
      t.regs.irqLatch = nn ∧ t.regs.irqCount = 0#8 ∧ t.regs.irqReload = true ∧ t.regs.irqEn = true ∧
      SameWatcher s.regs t.regs

/-! ## Snapshot, restore, query -/

/-- 44_system_ops.md R222, R224: SNAPSHOT returns the blob of the layout and changes nothing. The layout is the spec's own
optional one; a stamp below 2^32 fits it (log 14). -/
def Obligations.SnapshotLayout : Prop :=
  ∀ s : State, s.regs.ewStamp < 2 ^ 32 → ∃ blob, exec .snapshot s = .next { s with returned := .blob blob } ∧
    blob.length = 20 ∧
    (∀ k : Fin 8, blob[k.val]? = some s.regs.bank[k]) ∧
    (∃ b : Byte, blob[8]? = some b ∧ b.extractLsb' 0 3 = s.regs.sel ∧ b.getLsbD 7 = s.regs.chrMode ∧
      b.getLsbD 6 = s.regs.prgMode ∧ b &&& 0x38#8 = 0#8) ∧
    (∃ b : Byte, blob[9]? = some b ∧ b.getLsbD 0 = s.regs.mirr ∧ b &&& 0xFE#8 = 0#8) ∧
    (∃ b : Byte, blob[10]? = some b ∧ b.getLsbD 7 = s.regs.wramEn ∧ b.getLsbD 6 = s.regs.wramWp ∧ b &&& 0x3F#8 = 0#8) ∧
    (∃ b : Byte, blob[11]? = some b ∧ b.getLsbD 7 = s.regs.h1r ∧ b.getLsbD 6 = s.regs.h1w ∧ b.getLsbD 5 = s.regs.h0r ∧
      b.getLsbD 4 = s.regs.h0w ∧ b &&& 0x0F#8 = 0#8) ∧
    blob[12]? = some s.regs.irqCount ∧ blob[13]? = some s.regs.irqLatch ∧
    (∃ b : Byte, blob[14]? = some b ∧ b.getLsbD 1 = s.regs.irqReload ∧ b.getLsbD 0 = s.regs.irqEn ∧ b &&& 0xFC#8 = 0#8) ∧
    (∃ b : Byte, blob[15]? = some b ∧ b.getLsbD 0 = s.regs.ewLast ∧ b &&& 0xFE#8 = 0#8) ∧
    (∃ b0 b1 b2 b3 : Byte, blob[16]? = some b0 ∧ blob[17]? = some b1 ∧ blob[18]? = some b2 ∧ blob[19]? = some b3 ∧
      s.regs.ewStamp = b0.toNat + 256 * b1.toNat + 65536 * b2.toNat + 16777216 * b3.toNat)

/-- 44_system_ops.md R227, R226: `decode(encode(t)) = t` for every valid field tuple, and decode answers nothing but valid
field tuples whose encoding the blob is; so encode is injective on them (R223). -/
def Obligations.DecodeEncodeBlob : Prop :=
  ∀ (c : Config) (r : Regs) (blob : List Byte), decodeBlob c blob = some r ↔ (encodeBlob r = blob ∧ r.valid c = true)

/-- 44_system_ops.md R225, R226: RESTORE of the encoding of a valid field tuple sets every field from it and leaves the line
and all else; of any other blob it tells the caller RestoreFailure and changes no field of the block. -/
def Obligations.RestoreSetsFieldsOrFails : Prop :=
  ∀ (s : State) (blob : List Byte),
    (∀ r, r.valid s.cfg = true → encodeBlob r = blob →
      exec (.restore blob) s = .next { s with regs := r, returned := .void }) ∧
    ((∀ r, r.valid s.cfg = true → encodeBlob r ≠ blob) →
      exec (.restore blob) s = .next { s with returned := .restoreFailure blob })

/-- 44_system_ops.md R226, the layout's refusals: on a cartridge whose frame has at most 2^32 cycles, RESTORE fails on a blob of another
length than 20, with an odd bank[0] or bank[1], with a bit that the layout shows as 0 set, or with a timer outside the
frame. -/
def Obligations.RestoreRefusesMalformedBlobs : Prop :=
  ∀ (s : State) (blob : List Byte) (f : Nat), s.cfg.frameCycles = some f → f ≤ 2 ^ 32 →
    (blob.length ≠ 20 ∨
      (∃ b : Byte, (blob[0]? = some b ∨ blob[1]? = some b) ∧ b.getLsbD 0 = true) ∨
      (∃ (k : Nat) (mask b : Byte),
        (k, mask) ∈ [(8, 0x38#8), (9, 0xFE#8), (10, 0x3F#8), (11, 0x0F#8), (14, 0xFC#8), (15, 0xFE#8)] ∧
          blob[k]? = some b ∧ b &&& mask ≠ 0#8) ∨
      (∃ b0 b1 b2 b3 : Byte, blob[16]? = some b0 ∧ blob[17]? = some b1 ∧ blob[18]? = some b2 ∧ blob[19]? = some b3 ∧
        f ≤ b0.toNat + 256 * b1.toNat + 65536 * b2.toNat + 16777216 * b3.toNat)) →
    exec (.restore blob) s = .next { s with returned := .restoreFailure blob }

/-- 44_system_ops.md R227: the round-trip law over runs: from a state with valid registers, a SNAPSHOT and a RESTORE of its blob
before any nonempty sequence of operations change nothing of what the sequence leads to, the interrupt line included. -/
def Obligations.SnapshotRoundTrip : Prop :=
  ∀ (s : State) (es : List Event), s.regs.valid s.cfg = true → es ≠ [] →
    run (2 + es.length)
        { s with input := .sys .snapshot :: .sys (.restore (encodeBlob s.regs)) :: es } =
      run es.length { s with input := es }

/-- 44_system_ops.md R228: QUERY reports the current value of every register and derived value of the set, exactly once each,
and changes nothing. The order, labels and kinds are not in the spec (log 17). -/
def Obligations.QueryReportsEveryValue : Prop :=
  ∀ s : State, ∃ rows, exec .query s = .next { s with returned := .table rows } ∧
    (∀ k : Fin 8, Reports rows (.bank k) (.byte s.regs.bank[k])) ∧
    Reports rows .sel (.index s.regs.sel) ∧ Reports rows .prgMode (.bit s.regs.prgMode) ∧
    Reports rows .chrMode (.bit s.regs.chrMode) ∧ Reports rows .mirr (.bit s.regs.mirr) ∧
    Reports rows .wramEn (.bit s.regs.wramEn) ∧ Reports rows .wramWp (.bit s.regs.wramWp) ∧
    Reports rows .h0r (.bit s.regs.h0r) ∧ Reports rows .h0w (.bit s.regs.h0w) ∧
    Reports rows .h1r (.bit s.regs.h1r) ∧ Reports rows .h1w (.bit s.regs.h1w) ∧
    Reports rows .irqCount (.byte s.regs.irqCount) ∧ Reports rows .irqLatch (.byte s.regs.irqLatch) ∧
    Reports rows .irqEn (.bit s.regs.irqEn) ∧ Reports rows .irqReload (.bit s.regs.irqReload) ∧
    Reports rows .ewLast (.bit s.regs.ewLast) ∧ Reports rows .ewStamp (.number s.regs.ewStamp) ∧
    Reports rows .irqLine (.bit s.irqLine) ∧ Reports rows .mirroring (.mirroring (mirroring s.cfg s.regs)) ∧
    (∀ k : Fin 8, Reports rows (.chrPage k) (.page (chrEntry s.cfg s.regs k).page)) ∧
    (∀ k : Fin 4, Reports rows (.prgPage k) (.page (prgEntry s.cfg s.regs k).page)) ∧
    (s.cfg.variant = .mmc3 → Reports rows .lowPerm (.perm (lowPerm s.cfg s.regs))) ∧
    (s.cfg.variant = .mmc6 → ∀ h, Reports rows (.lowPermHalf h) (.perm (lowPermHalf s.cfg s.regs h))) ∧
    (rows.map QueryRow.name).Nodup

/-! ## Routing -/

/-- 30_encoding.md R92, 20_memory.md R53, 40_edge_watcher.md R120, 43_memory_access.md R207: a CPU write at 0x8000 and above
is a register write and nothing else, in the low window a WRAMWR, below it none of the block's; a CPU read there is a
PRGRD, in the low window a WRAMRD, below it none. Every video address is a NOTIFY; a video read or write below 0x2000 is a
CHRRD or a CHRWR, at 0x2000 and above none. The ranges and the routing are the spec's decisions D7 and D23 (logs 10 and
23). -/
def Obligations.BusRouting : Prop :=
  (∀ (a : BitVec 16) (x : Byte),
    (0x8000 ≤ a.toNat → route (.cpuWrite a x) = some (.write a x) ∧ route (.cpuRead a) = some (.memr .prg a.toNat)) ∧
    (0x6000 ≤ a.toNat → a.toNat < 0x8000 →
      route (.cpuWrite a x) = some (.memw .wram a.toNat x) ∧ route (.cpuRead a) = some (.memr .wram a.toNat)) ∧
    (a.toNat < 0x6000 → route (.cpuWrite a x) = none ∧ route (.cpuRead a) = none)) ∧
  (∀ (v c : Nat) (x : Byte),
    route (.videoAddress v c) = some (.note v c) ∧
    (v < 0x2000 → route (.videoRead v) = some (.memr .chr v) ∧ route (.videoWrite v x) = some (.memw .chr v x)) ∧
    (0x2000 ≤ v → route (.videoRead v) = none ∧ route (.videoWrite v x) = none))
end

