-- ==== Sys2Proof/Laws/Decode.lean ====
section
/-! SUPPORT. The fields of the register-write word, and the masked address by its four decoded lines. -/

namespace Sys2Proof

open Machine

theorem getLsbD_packWord (a : BitVec 16) (x : Byte) (i : Nat) :
    (packWord a x).getLsbD i = if i < 8 then x.getLsbD i else a.getLsbD (i - 8) := by
  unfold packWord
  exact BitVec.getLsbD_append

@[simp] theorem wordAddress_packWord (a : BitVec 16) (x : Byte) : wordAddress (packWord a x) = a := by
  apply BitVec.eq_of_getLsbD_eq
  intro i hi
  simp [wordAddress, getLsbD_packWord, hi]

@[simp] theorem wordValue_packWord (a : BitVec 16) (x : Byte) : wordValue (packWord a x) = x := by
  apply BitVec.eq_of_getLsbD_eq
  intro i hi
  simp [wordValue, getLsbD_packWord, hi]

/-- A word is its address and its byte. -/
theorem packWord_fields (w : BitVec 24) : packWord (wordAddress w) (wordValue w) = w := by
  apply BitVec.eq_of_getLsbD_eq
  intro i hi
  rw [getLsbD_packWord]
  split
  · rename_i h
    simp [wordValue, h]
  · have h1 : 8 + (i - 8) = i := by omega
    have h2 : i - 8 < 16 := by omega
    simp [wordAddress, h1, h2]

/-- A decoded register write, by its masked address. -/
theorem decode_write (v : Variant) (a : BitVec 16) (x : Byte) :
    decode v (.write a x) = decodePattern v (a &&& regMask) x := by
  simp [Event.write, decode, decodeWord]

/-- The masked address is made of the four decoded lines (30_encoding.md R93). -/
theorem masked_lines (a : BitVec 16) :
    a &&& regMask =
      (if a.getLsbD 15 then 0x8000#16 else 0#16) ||| (if a.getLsbD 14 then 0x4000#16 else 0#16) |||
        (if a.getLsbD 13 then 0x2000#16 else 0#16) ||| (if a.getLsbD 0 then 0x0001#16 else 0#16) := by
  apply BitVec.eq_of_getLsbD_eq
  intro i hi
  have hm : regMask.getLsbD i = decide (i = 15 ∨ i = 14 ∨ i = 13 ∨ i = 0) := by
    revert i
    decide
  have h15 : (0x8000#16).getLsbD i = decide (i = 15) := by revert i; decide
  have h14 : (0x4000#16).getLsbD i = decide (i = 14) := by revert i; decide
  have h13 : (0x2000#16).getLsbD i = decide (i = 13) := by revert i; decide
  have h0 : (0x0001#16).getLsbD i = decide (i = 0) := by revert i; decide
  rw [BitVec.getLsbD_and, hm]
  simp only [BitVec.getLsbD_or, apply_ite (fun w : BitVec 16 => w.getLsbD i), h15, h14, h13, h0]
  by_cases e15 : i = 15
  · subst e15; simp
  by_cases e14 : i = 14
  · subst e14; simp
  by_cases e13 : i = 13
  · subst e13; simp
  by_cases e0 : i = 0
  · subst e0; simp
  simp [e15, e14, e13, e0]

theorem decodePattern_format {v : Variant} {p : BitVec 16} {x : Byte} {i : Instr} (h : decodePattern v p x = .ok i) :
    (encode i).format = .regw := by
  unfold decodePattern at h
  split_ifs at h
  all_goals try (cases h; rfl)
  split at h <;> cases h <;> rfl

/-- Decoding keeps the format of 30_encoding.md R90. -/
theorem decode_format {v : Variant} {e : Event} {i : Instr} (h : decode v e = .ok i) :
    (encode i).format = e.format := by
  cases e with
  | regw w => exact decodePattern_format h
  | note a c => cases h; rfl
  | memr p a => cases p <;> cases h <;> rfl
  | memw p a x => cases p <;> cases h <;> rfl
  | sys k => cases k <;> cases h <;> rfl

end Sys2Proof
end

