-- ==== Sys2Proof/Laws/State.lean ====
section
/-! SUPPORT. One lemma per field per update of State, true by unfolding, so that no later proof unfolds a record update. -/

namespace Sys2Proof.Machine

section SetRegs
variable (s : State) (r : Regs)
@[simp] theorem State.setRegs_cfg : (s.setRegs r).cfg = s.cfg := rfl
@[simp] theorem State.setRegs_regs : (s.setRegs r).regs = r := rfl
@[simp] theorem State.setRegs_irqLine : (s.setRegs r).irqLine = s.irqLine := rfl
@[simp] theorem State.setRegs_prg : (s.setRegs r).prg = s.prg := rfl
@[simp] theorem State.setRegs_chr : (s.setRegs r).chr = s.chr := rfl
@[simp] theorem State.setRegs_wram : (s.setRegs r).wram = s.wram := rfl
@[simp] theorem State.setRegs_draws : (s.setRegs r).draws = s.draws := rfl
@[simp] theorem State.setRegs_input : (s.setRegs r).input = s.input := rfl
@[simp] theorem State.setRegs_returned : (s.setRegs r).returned = s.returned := rfl
end SetRegs

section Answer
variable (s : State) (x : Returned)
@[simp] theorem State.answer_cfg : (s.answer x).cfg = s.cfg := rfl
@[simp] theorem State.answer_regs : (s.answer x).regs = s.regs := rfl
@[simp] theorem State.answer_irqLine : (s.answer x).irqLine = s.irqLine := rfl
@[simp] theorem State.answer_prg : (s.answer x).prg = s.prg := rfl
@[simp] theorem State.answer_chr : (s.answer x).chr = s.chr := rfl
@[simp] theorem State.answer_wram : (s.answer x).wram = s.wram := rfl
@[simp] theorem State.answer_draws : (s.answer x).draws = s.draws := rfl
@[simp] theorem State.answer_input : (s.answer x).input = s.input := rfl
@[simp] theorem State.answer_returned : (s.answer x).returned = x := rfl
end Answer

section AssertIrq
variable (s : State)
@[simp] theorem State.assertIrq_cfg : s.assertIrq.cfg = s.cfg := rfl
@[simp] theorem State.assertIrq_regs : s.assertIrq.regs = s.regs := rfl
@[simp] theorem State.assertIrq_irqLine : s.assertIrq.irqLine = true := rfl
@[simp] theorem State.assertIrq_prg : s.assertIrq.prg = s.prg := rfl
@[simp] theorem State.assertIrq_chr : s.assertIrq.chr = s.chr := rfl
@[simp] theorem State.assertIrq_wram : s.assertIrq.wram = s.wram := rfl
@[simp] theorem State.assertIrq_draws : s.assertIrq.draws = s.draws := rfl
@[simp] theorem State.assertIrq_input : s.assertIrq.input = s.input := rfl
@[simp] theorem State.assertIrq_returned : s.assertIrq.returned = s.returned := rfl
end AssertIrq

section ClearIrq
variable (s : State)
@[simp] theorem State.clearIrq_cfg : s.clearIrq.cfg = s.cfg := rfl
@[simp] theorem State.clearIrq_regs : s.clearIrq.regs = s.regs := rfl
@[simp] theorem State.clearIrq_irqLine : s.clearIrq.irqLine = false := rfl
@[simp] theorem State.clearIrq_prg : s.clearIrq.prg = s.prg := rfl
@[simp] theorem State.clearIrq_chr : s.clearIrq.chr = s.chr := rfl
@[simp] theorem State.clearIrq_wram : s.clearIrq.wram = s.wram := rfl
@[simp] theorem State.clearIrq_draws : s.clearIrq.draws = s.draws := rfl
@[simp] theorem State.clearIrq_input : s.clearIrq.input = s.input := rfl
@[simp] theorem State.clearIrq_returned : s.clearIrq.returned = s.returned := rfl
end ClearIrq

section DrawByte
variable (s : State)
@[simp] theorem State.drawByte_cfg : s.drawByte.cfg = s.cfg := rfl
@[simp] theorem State.drawByte_regs : s.drawByte.regs = s.regs := rfl
@[simp] theorem State.drawByte_irqLine : s.drawByte.irqLine = s.irqLine := rfl
@[simp] theorem State.drawByte_prg : s.drawByte.prg = s.prg := rfl
@[simp] theorem State.drawByte_chr : s.drawByte.chr = s.chr := rfl
@[simp] theorem State.drawByte_wram : s.drawByte.wram = s.wram := rfl
@[simp] theorem State.drawByte_draws : s.drawByte.draws = s.draws + 1 := rfl
@[simp] theorem State.drawByte_input : s.drawByte.input = s.input := rfl
@[simp] theorem State.drawByte_returned : s.drawByte.returned = .byte (Config.openBus s.draws) := rfl
end DrawByte

section MemWrite
variable (s : State) (sp : Space) (a : Nat) (v : Byte)
@[simp] theorem State.memWrite_cfg : (s.memWrite sp a v).cfg = s.cfg := by cases sp <;> rfl
@[simp] theorem State.memWrite_regs : (s.memWrite sp a v).regs = s.regs := by cases sp <;> rfl
@[simp] theorem State.memWrite_irqLine : (s.memWrite sp a v).irqLine = s.irqLine := by cases sp <;> rfl
@[simp] theorem State.memWrite_draws : (s.memWrite sp a v).draws = s.draws := by cases sp <;> rfl
@[simp] theorem State.memWrite_input : (s.memWrite sp a v).input = s.input := by cases sp <;> rfl
@[simp] theorem State.memWrite_returned : (s.memWrite sp a v).returned = s.returned := by cases sp <;> rfl

theorem State.memWrite_store_same : (s.memWrite sp a v).store sp = (s.store sp).write a v := by cases sp <;> rfl

theorem State.memWrite_store_other {sp' : Space} (h : sp' ≠ sp) : (s.memWrite sp a v).store sp' = s.store sp' := by
  cases sp <;> cases sp' <;> first | rfl | exact absurd rfl h
end MemWrite

section RaiseRestoreFailure
variable (s : State) (blob : List Byte)
@[simp] theorem State.raiseRestoreFailure_cfg : (s.raiseRestoreFailure blob).cfg = s.cfg := rfl
@[simp] theorem State.raiseRestoreFailure_regs : (s.raiseRestoreFailure blob).regs = s.regs := rfl
@[simp] theorem State.raiseRestoreFailure_irqLine : (s.raiseRestoreFailure blob).irqLine = s.irqLine := rfl
@[simp] theorem State.raiseRestoreFailure_prg : (s.raiseRestoreFailure blob).prg = s.prg := rfl
@[simp] theorem State.raiseRestoreFailure_chr : (s.raiseRestoreFailure blob).chr = s.chr := rfl
@[simp] theorem State.raiseRestoreFailure_wram : (s.raiseRestoreFailure blob).wram = s.wram := rfl
@[simp] theorem State.raiseRestoreFailure_draws : (s.raiseRestoreFailure blob).draws = s.draws := rfl
@[simp] theorem State.raiseRestoreFailure_input : (s.raiseRestoreFailure blob).input = s.input := rfl
@[simp] theorem State.raiseRestoreFailure_returned :
    (s.raiseRestoreFailure blob).returned = .restoreFailure blob := rfl
end RaiseRestoreFailure

/-- Reading a byte looks at its store alone. -/
theorem State.memRead_congr {s t : State} {sp : Space} (h : t.store sp = s.store sp) (a : Nat) :
    t.memRead sp a = s.memRead sp a := by rw [State.memRead, h, State.memRead]

end Sys2Proof.Machine
end

