-- ==== Sys2Proof/Laws/Memory.lean ====
section
/-! SUPPORT. The laws of a backing store: read after write, and that every operation keeps the canonical form and the
size. -/

namespace Sys2Proof.Machine

theorem Memory.mem_cons {a : Nat} {v : Byte} {m : Memory} {c : Host.Cell} (h : c ∈ Memory.cons a v m) :
    c = (a, v) ∧ v ≠ unlistedByte ∨ c ∈ m := by
  unfold Memory.cons at h
  split at h
  · exact .inr h
  · rename_i hv
    rcases List.mem_cons.1 h with h | h
    · exact .inl ⟨h, hv⟩
    · exact .inr h

/-- A cell of a written store is the written one or an old one. -/
theorem Memory.mem_write {m : Memory} {a : Nat} {v : Byte} {c : Host.Cell} (h : c ∈ Memory.write m a v) :
    c = (a, v) ∧ v ≠ unlistedByte ∨ c ∈ m := by
  induction m with
  | nil => simpa using Memory.mem_cons h
  | cons d rest ih =>
    obtain ⟨b, w⟩ := d
    simp only [Memory.write] at h
    split at h
    · exact Memory.mem_cons h
    · split at h
      · exact (Memory.mem_cons h).imp id (List.mem_cons_of_mem _)
      · rcases List.mem_cons.1 h with h | h
        · exact .inr (h ▸ List.mem_cons_self)
        · exact (ih h).imp id (List.mem_cons_of_mem _)

theorem Memory.wf_cons {a : Nat} {v : Byte} {m : Memory} (hm : Memory.wf m) (ha : ∀ c ∈ m, a < c.1) :
    Memory.wf (Memory.cons a v m) := by
  unfold Memory.cons
  split
  · exact hm
  · rename_i hv
    exact ⟨List.pairwise_cons.2 ⟨ha, hm.1⟩, fun c hc =>
      (List.mem_cons.1 hc).elim (fun h => h ▸ hv) (hm.2 c)⟩

theorem Memory.wf_tail {c : Host.Cell} {m : Memory} (h : Memory.wf (c :: m)) : Memory.wf m :=
  ⟨(List.pairwise_cons.1 h.1).2, fun d hd => h.2 d (List.mem_cons_of_mem _ hd)⟩

/-- A write keeps the canonical form. -/
theorem Memory.wf_write {m : Memory} (a : Nat) (v : Byte) (h : Memory.wf m) : Memory.wf (Memory.write m a v) := by
  induction m with
  | nil => exact Memory.wf_cons h (by simp)
  | cons d rest ih =>
    obtain ⟨b, w⟩ := d
    have hb : ∀ c ∈ rest, b < c.1 := (List.pairwise_cons.1 h.1).1
    have hrest := Memory.wf_tail h
    simp only [Memory.write]
    split
    · rename_i hab
      exact Memory.wf_cons h fun c hc => (List.mem_cons.1 hc).elim (fun e => e ▸ hab) fun e => hab.trans (hb c e)
    · rename_i hab
      split
      · rename_i hab'
        exact Memory.wf_cons hrest (hab' ▸ hb)
      · rename_i hne
        refine ⟨List.pairwise_cons.2 ⟨fun c hc => ?_, (ih hrest).1⟩, fun c hc => ?_⟩
        · rcases Memory.mem_write hc with ⟨rfl, -⟩ | hc
          · show b < a
            omega
          · exact hb c hc
        · rcases List.mem_cons.1 hc with rfl | hc
          · exact h.2 _ List.mem_cons_self
          · exact (ih hrest).2 c hc

/-- A write inside the size keeps the store inside its size. -/
theorem Memory.within_write {size a : Nat} {v : Byte} {m : Memory} (ha : a < size) (h : Memory.within size m) :
    Memory.within size (Memory.write m a v) := fun c hc =>
  (Memory.mem_write hc).elim (fun e => e.1 ▸ ha) (h c)

/-- An offset below every listed one reads as an unlisted one. -/
theorem Memory.read_below {m : Memory} {a : Nat} (h : ∀ c ∈ m, a < c.1) : Memory.read m a = unlistedByte := by
  induction m with
  | nil => rfl
  | cons d rest ih =>
    obtain ⟨b, w⟩ := d
    have : a ≠ b := Nat.ne_of_lt (h (b, w) List.mem_cons_self)
    rw [Memory.read, if_neg this]
    exact ih fun c hc => h c (List.mem_cons_of_mem _ hc)

theorem Memory.read_cons_same {m : Memory} {a : Nat} {v : Byte} (h : ∀ c ∈ m, a < c.1) :
    Memory.read (Memory.cons a v m) a = v := by
  unfold Memory.cons
  split
  · rename_i hv
    rw [Memory.read_below h, hv]
  · simp [Memory.read]

theorem Memory.read_cons_other {m : Memory} {a x : Nat} {v : Byte} (hx : x ≠ a) :
    Memory.read (Memory.cons a v m) x = Memory.read m x := by
  unfold Memory.cons
  split
  · rfl
  · simp [Memory.read, hx]

/-- A read of the written offset gives the written byte. -/
theorem Memory.read_write_same {m : Memory} (a : Nat) (v : Byte) (h : Memory.wf m) :
    Memory.read (Memory.write m a v) a = v := by
  induction m with
  | nil => exact Memory.read_cons_same (by simp)
  | cons d rest ih =>
    obtain ⟨b, w⟩ := d
    have hb : ∀ c ∈ rest, b < c.1 := (List.pairwise_cons.1 h.1).1
    simp only [Memory.write]
    split
    · rename_i hab
      exact Memory.read_cons_same fun c hc => (List.mem_cons.1 hc).elim (fun e => e ▸ hab) fun e => hab.trans (hb c e)
    · split
      · rename_i hab'
        exact Memory.read_cons_same (hab' ▸ hb)
      · rename_i hne
        rw [Memory.read, if_neg hne]
        exact ih (Memory.wf_tail h)

/-- A read of another offset gives what it gave. -/
theorem Memory.read_write_other {m : Memory} {a x : Nat} (v : Byte) (hx : x ≠ a) :
    Memory.read (Memory.write m a v) x = Memory.read m x := by
  induction m with
  | nil => exact Memory.read_cons_other hx
  | cons d rest ih =>
    obtain ⟨b, w⟩ := d
    simp only [Memory.write]
    split
    · exact Memory.read_cons_other hx
    · split
      · rename_i hab'
        rw [Memory.read_cons_other hx, Memory.read, if_neg (hab' ▸ hx)]
      · rw [Memory.read, Memory.read, ih]

/-- The first cell of a store is read at its offset. -/
theorem Memory.read_head (c : Host.Cell) (m : Memory) : Memory.read (c :: m) c.1 = c.2 := if_pos rfl

theorem Memory.read_below_cons {c : Host.Cell} {m : Memory} {a : Nat} (h : Memory.wf (c :: m)) (ha : a < c.1) :
    Memory.read (c :: m) a = unlistedByte :=
  Memory.read_below fun x hx =>
    (List.mem_cons.1 hx).elim (fun e => e ▸ ha) fun e => ha.trans ((List.pairwise_cons.1 h.1).1 x e)

/-- Equal memories are equal data: two canonical stores that read alike at every offset are the same list. -/
theorem Memory.ext_read {m n : Memory} (hm : Memory.wf m) (hn : Memory.wf n)
    (h : ∀ a, Memory.read m a = Memory.read n a) : m = n := by
  induction m generalizing n with
  | nil =>
    cases n with
    | nil => rfl
    | cons d rest => exact absurd ((Memory.read_head d rest).symm.trans (h d.1).symm) (hn.2 d List.mem_cons_self)
  | cons c mrest ih =>
    cases n with
    | nil => exact absurd ((Memory.read_head c mrest).symm.trans (h c.1)) (hm.2 c List.mem_cons_self)
    | cons d nrest =>
      have hfst : c.1 = d.1 := by
        rcases Nat.lt_trichotomy c.1 d.1 with hlt | heq | hlt
        · exact absurd ((Memory.read_head c mrest).symm.trans ((h c.1).trans (Memory.read_below_cons hn hlt)))
            (hm.2 c List.mem_cons_self)
        · exact heq
        · exact absurd ((Memory.read_head d nrest).symm.trans ((h d.1).symm.trans (Memory.read_below_cons hm hlt)))
            (hn.2 d List.mem_cons_self)
      have hsnd : c.2 = d.2 :=
        (Memory.read_head c mrest).symm.trans ((h c.1).trans (by rw [hfst, Memory.read_head]))
      obtain rfl : c = d := Prod.ext hfst hsnd
      congr 1
      refine ih (Memory.wf_tail hm) (Memory.wf_tail hn) fun a => ?_
      by_cases ha : a = c.1
      · rw [ha, Memory.read_below (List.pairwise_cons.1 hm.1).1, Memory.read_below (List.pairwise_cons.1 hn.1).1]
      · have := h a
        rwa [Memory.read, if_neg ha, Memory.read, if_neg ha] at this

/-- A write to one store leaves every byte of the others, and every other byte of its own, alone. -/
theorem State.memRead_memWrite_other {s : State} {sp sp' : Space} {a x : Nat} {v : Byte} (h : (sp', x) ≠ (sp, a)) :
    (s.memWrite sp a v).memRead sp' x = s.memRead sp' x := by
  by_cases hs : sp' = sp
  · subst hs
    have hx : x ≠ a := fun e => h (by rw [e])
    rw [State.memRead, State.memWrite_store_same, Memory.read_write_other v hx, State.memRead]
  · exact State.memRead_congr (State.memWrite_store_other s sp a v hs) x

/-- The written byte is read back. -/
theorem State.memRead_memWrite_same {s : State} {sp : Space} {a : Nat} {v : Byte} (h : (s.store sp).wf) :
    (s.memWrite sp a v).memRead sp a = v := by
  rw [State.memRead, State.memWrite_store_same, Memory.read_write_same a v h]

end Sys2Proof.Machine
end

