-- ==== Sys2Proof/Laws/Ops.lean ====
section
/-! SUPPORT. For each shared operation one lemma that says everything it can do, and the canonical form and size of the
stores under them. -/

namespace Sys2Proof.Machine

@[simp] theorem complete_eq (s : State) : complete s = .next (s.answer .void) := rfl

/-- A gated read answers the byte at the offset it may read, or draws. -/
theorem gatedRead_cases {s t : State} {sp : Space} {target : Option Nat} (h : gatedRead s sp target = .next t) :
    (∃ off, target = some off ∧ t = s.answer (.byte (s.memRead sp off))) ∨ (target = none ∧ t = s.drawByte) := by
  cases target with
  | none => exact .inr ⟨rfl, by simpa [gatedRead] using h.symm⟩
  | some off => exact .inl ⟨off, rfl, by simpa [gatedRead] using h.symm⟩

/-- A gated write stores the byte at the offset it may write, or drops it. -/
theorem gatedWrite_cases {s t : State} {sp : Space} {target : Option Nat} {v : Byte}
    (h : gatedWrite s sp target v = .next t) :
    (∃ off, target = some off ∧ t = (s.memWrite sp off v).answer .void) ∨ (target = none ∧ t = s.answer .void) := by
  cases target with
  | none => exact .inr ⟨rfl, by simpa [gatedWrite] using h.symm⟩
  | some off => exact .inl ⟨off, rfl, by simpa [gatedWrite] using h.symm⟩

/-- Answering looks at no store. -/
@[simp] theorem State.answer_memRead (s : State) (x : Returned) (sp : Space) (a : Nat) :
    (s.answer x).memRead sp a = s.memRead sp a := by cases sp <;> rfl

@[simp] theorem State.setRegs_memRead (s : State) (r : Regs) (sp : Space) (a : Nat) :
    (s.setRegs r).memRead sp a = s.memRead sp a := by cases sp <;> rfl

@[simp] theorem State.assertIrq_memRead (s : State) (sp : Space) (a : Nat) :
    s.assertIrq.memRead sp a = s.memRead sp a := by cases sp <;> rfl

@[simp] theorem State.clearIrq_memRead (s : State) (sp : Space) (a : Nat) :
    s.clearIrq.memRead sp a = s.memRead sp a := by cases sp <;> rfl

@[simp] theorem State.drawByte_memRead (s : State) (sp : Space) (a : Nat) :
    s.drawByte.memRead sp a = s.memRead sp a := by cases sp <;> rfl

/-- A write inside its store keeps every store canonical and inside its size. -/
theorem State.store_memWrite {s : State} {sp sp' : Space} {off : Nat} {v : Byte} {size : Nat}
    (hwf : (s.store sp').wf ∧ (s.store sp').within size) (hoff : sp' = sp → off < size) :
    ((s.memWrite sp off v).store sp').wf ∧ ((s.memWrite sp off v).store sp').within size := by
  by_cases h : sp' = sp
  · subst h
    rw [State.memWrite_store_same]
    exact ⟨Memory.wf_write off v hwf.1, Memory.within_write (hoff rfl) hwf.2⟩
  · rwa [State.memWrite_store_other s sp off v h]

end Sys2Proof.Machine
end

