-- ==== Sys2Proof/Laws/IrqCounter.lean ====
section
/-! SUPPORT. What one clock of the IRQ counter and one notification do. -/

namespace Sys2Proof.Machine

section ClockIrq
variable (s : State)
@[simp] theorem clockIrq_regs : (clockIrq s).regs = clockRegs s.regs := by unfold clockIrq; dsimp only; split <;> rfl
@[simp] theorem clockIrq_cfg : (clockIrq s).cfg = s.cfg := by unfold clockIrq; dsimp only; split <;> rfl
@[simp] theorem clockIrq_input : (clockIrq s).input = s.input := by unfold clockIrq; dsimp only; split <;> rfl
@[simp] theorem clockIrq_draws : (clockIrq s).draws = s.draws := by unfold clockIrq; dsimp only; split <;> rfl
@[simp] theorem clockIrq_prg : (clockIrq s).prg = s.prg := by unfold clockIrq; dsimp only; split <;> rfl
@[simp] theorem clockIrq_chr : (clockIrq s).chr = s.chr := by unfold clockIrq; dsimp only; split <;> rfl
@[simp] theorem clockIrq_wram : (clockIrq s).wram = s.wram := by unfold clockIrq; dsimp only; split <;> rfl
@[simp] theorem clockIrq_memRead (sp : Space) (a : Nat) : (clockIrq s).memRead sp a = s.memRead sp a := by
  unfold clockIrq; dsimp only; split <;> simp

/-- The line is set or kept, never cleared. -/
@[simp] theorem clockIrq_irqLine : (clockIrq s).irqLine = (s.irqLine || clockFires s.cfg s.regs) := by
  unfold clockIrq; dsimp only; split <;> rename_i h <;> simp [h]
end ClockIrq

/-- Of the address only the watched bit is read. -/
theorem classify_congr {cfg : Config} {r : Regs} {a b : Nat} (h : watchedBit a = watchedBit b) (c : Nat) :
    classify cfg r a c = classify cfg r b c := by
  unfold classify accepts; rw [h]

theorem observeRegs_congr {cfg : Config} {r : Regs} {a b : Nat} (h : watchedBit a = watchedBit b) (c : Nat) :
    observeRegs cfg r a c = observeRegs cfg r b c := by
  unfold observeRegs accepts; rw [h]

/-- observe touches the watcher's two fields and no other. -/
theorem observeRegs_frame (cfg : Config) (r : Regs) (a c : Nat) :
    observeRegs cfg r a c =
      { r with ewLast := (observeRegs cfg r a c).ewLast, ewStamp := (observeRegs cfg r a c).ewStamp } := by
  unfold observeRegs; split <;> rfl

/-- NOTIFY, as one next state. -/
theorem execNotify_eq (a c : Nat) (s : State) : execNotify a c s =
    .next ((if classify s.cfg s.regs a c = .rise then clockIrq (s.setRegs (observeRegs s.cfg s.regs a c))
      else s.setRegs (observeRegs s.cfg s.regs a c)).answer .void) := by
  unfold execNotify
  cases h : classify s.cfg s.regs a c <;> simp

end Sys2Proof.Machine
end

