-- ==== Sys2Proof/Laws/Operands.lean ====
section
/-! SUPPORT. The lemmas of page resolution, permissions and targets. -/

namespace Sys2Proof.Machine

/-- The windows' ranges as numbers. -/
theorem inPrg_iff {a : Nat} : inPrg a = true ↔ 0x8000 ≤ a ∧ a < 0x10000 := decide_eq_true_iff

theorem inChr_iff {v : Nat} : inChr v = true ↔ 0 ≤ v ∧ v < 0x2000 := decide_eq_true_iff

theorem inLow_iff {a : Nat} : inLow a = true ↔ 0x6000 ≤ a ∧ a < 0x8000 := decide_eq_true_iff

/-- The target of an address of the low window on an MMC6, through the half map. -/
theorem lowTarget_mmc6 {c : Config} {r : Regs} {a : Nat} (hv : c.variant = .mmc6) (ha : inLow a = true) :
    lowTarget c r a =
      some (match lowHalfMap c a with
        | some (h, off) => (lowPermHalf c r h, off)
        | none => (.none, 0)) := by
  cases hm : lowHalfMap c a <;> simp only [lowTarget, if_pos ha, lowLookup, hv, hm]

/-- An address outside the half map can be neither read nor written. -/
theorem lowTarget_outside {c : Config} {r : Regs} {a : Nat} (hv : c.variant = .mmc6) (ha : inLow a = true)
    (h : lowHalfMap c a = none) : readable (lowTarget c r a) = none ∧ writable (lowTarget c r a) = none := by
  rw [lowTarget_mmc6 hv ha, h]; exact ⟨rfl, rfl⟩

/-- A register value as a selector: the plain remainder. -/
theorem emod_nat (v n : Nat) : emod (v : Int) n = v % n := by
  unfold emod
  omega

/-- "-2 from the end" of a store of at least one page; 0 when there is one page (20_memory.md R58). -/
theorem emod_neg_two {n : Nat} (h : 0 < n) : emod (-2) n = n - 2 := by
  unfold emod
  rcases Nat.lt_or_ge n 2 with h1 | h1
  · obtain rfl : n = 1 := by omega
    rfl
  · have : ((-2 : Int) % (n : Int)) = (n : Int) - 2 := by
      rw [← Int.add_emod_right, Int.emod_eq_of_lt] <;> omega
    omega

/-- The last page (20_memory.md R58). -/
theorem emod_neg_one {n : Nat} (h : 0 < n) : emod (-1) n = n - 1 := by
  unfold emod
  have : ((-1 : Int) % (n : Int)) = (n : Int) - 1 := by
    rw [← Int.add_emod_right, Int.emod_eq_of_lt] <;> omega
  omega

theorem emod_lt {n : Nat} (a : Int) (h : 0 < n) : emod a n < n := by
  unfold emod
  have h1 := Int.emod_nonneg a (b := (n : Int)) (by omega)
  have h2 := Int.emod_lt_of_pos a (b := (n : Int)) (by omega)
  omega

@[simp] theorem entryOf_no_pages (s : Int) (p : Perm) : entryOf s 0 p = { page := none, perm := .none } := rfl

theorem entryOf_pages {n : Nat} (s : Int) (p : Perm) (h : 0 < n) :
    entryOf s n p = { page := some (emod s n), perm := p } := by
  simp [entryOf, resolve, Nat.ne_of_gt h]

/-- A resolved page is a page of the store: "never out-of-bounds" (20_memory.md R58). -/
theorem entryOf_page_lt {s : Int} {n k : Nat} {p : Perm} (h : (entryOf s n p).page = some k) : k < n := by
  rcases Nat.eq_zero_or_pos n with rfl | hn
  · simp at h
  · rw [entryOf_pages s p hn] at h
    injection h with h
    exact h ▸ emod_lt s hn

/-- An entry's target lies inside a store of n pages (20_memory.md R59). -/
theorem entryTarget_lt {s : Int} {n size o off : Nat} {p q : Perm} (ho : o < size)
    (h : entryTarget (entryOf s n p) size o = some (q, off)) : off < n * size := by
  unfold entryTarget at h
  split at h
  · rename_i k hk
    injection h with h
    injection h with h1 h2
    have hk := entryOf_page_lt hk
    have : (k + 1) * size ≤ n * size := Nat.mul_le_mul_right size hk
    have : (k + 1) * size = k * size + size := Nat.succ_mul k size
    omega
  · cases h

theorem readable_some {t : Option (Perm × Nat)} {off : Nat} (h : readable t = some off) :
    ∃ p, t = some (p, off) ∧ canRead p = true := by
  match t with
  | none => cases h
  | some (p, o) =>
    simp only [readable] at h
    split at h
    · injection h with h
      exact ⟨p, by rw [h], ‹_›⟩
    · cases h

theorem writable_some {t : Option (Perm × Nat)} {off : Nat} (h : writable t = some off) :
    ∃ p, t = some (p, off) ∧ canWrite p = true := by
  match t with
  | none => cases h
  | some (p, o) =>
    simp only [writable] at h
    split at h
    · injection h with h
      exact ⟨p, by rw [h], ‹_›⟩
    · cases h

@[simp] theorem canRead_permOf (r w : Bool) : canRead (permOf r w) = r := by cases r <;> cases w <;> rfl

@[simp] theorem canWrite_permOf (r w : Bool) : canWrite (permOf r w) = w := by cases r <;> cases w <;> rfl

end Sys2Proof.Machine
end

