-- ==== Sys2Proof/Laws/PerInstr.lean ====
section
/-! SUPPORT. One lemma per instruction: its event has the format that spec/opcode_table.json gives its row. -/

namespace Sys2Proof.Laws.Format

open Sys2Proof.Machine

/-- The format of an instruction's row (30_encoding.md R109). -/
def rowFormat : Instr → Format
  | .select _ | .data _ | .mirror _ | .wramctlMmc3 _ | .wramctlMmc6 _ => .regw
  | .irqlatch _ | .irqreload _ | .irqdis _ | .irqen _ => .regw
  | .notify _ _ => .note
  | .wramrd _ | .prgrd _ | .chrrd _ => .memr
  | .wramwr _ _ | .chrwr _ _ => .memw
  | .reset | .snapshot | .restore _ | .query => .sys

/-- The encoding has the format of the row. -/
def Statement (i : Instr) : Prop := (encode i).format = rowFormat i

theorem select (x : Byte) : Statement (.select x) := rfl
theorem data (x : Byte) : Statement (.data x) := rfl
theorem mirror (x : Byte) : Statement (.mirror x) := rfl
theorem wramctlMmc3 (x : Byte) : Statement (.wramctlMmc3 x) := rfl
theorem wramctlMmc6 (x : Byte) : Statement (.wramctlMmc6 x) := rfl
theorem irqlatch (x : Byte) : Statement (.irqlatch x) := rfl
theorem irqreload (x : Byte) : Statement (.irqreload x) := rfl
theorem irqdis (x : Byte) : Statement (.irqdis x) := rfl
theorem irqen (x : Byte) : Statement (.irqen x) := rfl
theorem notify (a c : Nat) : Statement (.notify a c) := rfl
theorem wramrd (a : Nat) : Statement (.wramrd a) := rfl
theorem wramwr (a : Nat) (x : Byte) : Statement (.wramwr a x) := rfl
theorem prgrd (a : Nat) : Statement (.prgrd a) := rfl
theorem chrrd (a : Nat) : Statement (.chrrd a) := rfl
theorem chrwr (a : Nat) (x : Byte) : Statement (.chrwr a x) := rfl
theorem reset : Statement .reset := rfl
theorem snapshot : Statement .snapshot := rfl
theorem restore (blob : List Byte) : Statement (.restore blob) := rfl
theorem query : Statement .query := rfl

end Sys2Proof.Laws.Format
end

