-- ==== Sys2Proof/Laws/Snapshot.lean ====
section
/-! SUPPORT. The parts of the snapshot blob, and what RESTORE can do. -/

namespace Sys2Proof.Machine

/-- The bits of a packed byte, 7 first. -/
theorem packBits_bits (b7 b6 b5 b4 b3 b2 b1 b0 : Bool) :
    (List.range 8).map (packBits b7 b6 b5 b4 b3 b2 b1 b0).getLsbD = [b0, b1, b2, b3, b4, b5, b6, b7] := by
  revert b7 b6 b5 b4 b3 b2 b1 b0; decide

/-- The SELECT image holds its three fields, and 0 between them. -/
theorem selectImage_fields (r : Regs) :
    (selectImage r).extractLsb' 0 3 = r.sel ∧ (selectImage r).getLsbD 7 = r.chrMode ∧
      (selectImage r).getLsbD 6 = r.prgMode ∧ selectImage r &&& 0x38#8 = 0#8 := by
  unfold selectImage
  generalize r.sel = s; generalize r.chrMode = c; generalize r.prgMode = p
  revert s c p; decide

theorem leNat_leTail {fuel n : Nat} (h : n ≤ fuel) : leNat (leTail fuel n) = n := by
  induction fuel generalizing n with
  | zero => obtain rfl : n = 0 := by omega
            rfl
  | succ f ih =>
    unfold leTail
    split
    · rename_i h0; subst h0; rfl
    · rw [leNat, ih (by omega), BitVec.toNat_ofNat]
      omega

/-- The timer's bytes are its little-endian number. -/
theorem leNat_stampBytes (n : Nat) : leNat (stampBytes n) = n := by
  simp only [stampBytes, leNat, leNat_leTail (Nat.le_refl _), BitVec.toNat_ofNat]
  omega

/-- A blob that decodes is the encoding of what it decodes to, and that is valid. -/
theorem decodeBlob_some {c : Config} {blob : List Byte} {r : Regs} (h : decodeBlob c blob = some r) :
    r.valid c = true ∧ encodeBlob r = blob := by
  unfold decodeBlob at h
  dsimp only at h
  split at h
  · rename_i hh; injection h with h; subst h; exact ⟨hh.2, hh.1⟩
  · cases h

/-- RESTORE sets the registers or tells the failure. -/
theorem execRestore_cases {blob : List Byte} {s t : State} (h : execRestore blob s = .next t) :
    (∃ r, decodeBlob s.cfg blob = some r ∧ t = (s.setRegs r).answer .void) ∨
      (decodeBlob s.cfg blob = none ∧ t = s.raiseRestoreFailure blob) := by
  unfold execRestore at h
  split at h
  · rename_i r hr; exact .inl ⟨r, hr, by simpa [complete] using h.symm⟩
  · rename_i hr; exact .inr ⟨hr, by simpa using h.symm⟩

/-- Bit 0 of a byte with bit 0 forced to 0. -/
@[simp] theorem clearBit0_bit0 (v : Byte) : (clearBit0 v)[0] = false := by revert v; decide

/-- Validity looks at the banks and the timer alone. -/
theorem Regs.valid_congr {c : Config} {r q : Regs} (hb : q.bank = r.bank) (hs : q.ewStamp = r.ewStamp) :
    Regs.valid c q = Regs.valid c r := by
  unfold Regs.valid; rw [hs]; simp only [hb]

end Sys2Proof.Machine
end

