-- ==== Sys2Proof/Laws/Step.lean ====
section
/-! SUPPORT. What one step and one run can do. -/

namespace Sys2Proof.Machine

/-- A step takes the oldest operation: its instruction runs, or it is a register write of no pattern and nothing happens. -/
theorem step_cases {s t : State} (h : step s = .next t) : ∃ e rest, s.input = e :: rest ∧
    ((∃ i, decode s.cfg.variant e = .ok i ∧ exec i (s.consume rest) = .next t) ∨
      ((∃ x, decode s.cfg.variant e = .error x) ∧ t = (s.consume rest).answer .void)) := by
  unfold step at h
  split at h
  · cases h
  · rename_i e rest he
    refine ⟨e, rest, he, ?_⟩
    split at h
    · rename_i i hi; exact .inl ⟨i, hi, h⟩
    · rename_i x hx; exact .inr ⟨⟨x, hx⟩, by simpa using h.symm⟩

@[simp] theorem run_zero (s : State) : run 0 s = .next s := rfl

theorem core_run_next (M : Host.Core) {k : Nat} {s u : M.State} (h : M.step s = .next u) :
    M.run (k + 1) s = M.run k u := by
  simp only [Host.Core.run, h]

theorem core_run_inv (M : Host.Core) {k : Nat} {s t : M.State} (h : M.run (k + 1) s = .next t) :
    ∃ u, M.step s = .next u ∧ M.run k u = .next t := by
  simp only [Host.Core.run] at h
  split at h
  · exact ⟨_, ‹_›, h⟩
  · cases h
  · cases h

theorem run_next {n : Nat} {s u : State} (h : step s = .next u) : run (n + 1) s = run n u :=
  core_run_next Sys2Proof.core h

theorem run_inv {n : Nat} {s t : State} (h : run (n + 1) s = .next t) : ∃ u, step s = .next u ∧ run n u = .next t :=
  core_run_inv Sys2Proof.core h

/-- The stores of State.reset are canonical. -/
theorem State.reset_store_wf (sp : Space) : (State.reset.store sp).wf := by cases sp <;> decide

end Sys2Proof.Machine
end

