-- ==== Sys2Proof/Tests/Slice0.lean ====
section
/-! SUPPORT. The model's own tests, and a witness for the hypotheses of every obligation that has some.

Expected results come from spec/95_test_vectors.md (section named at each test) or are worked out from the cited rule. -/

namespace Sys2Proof.Tests

open Machine Claims

/-! The small states the tests start from. -/

/-- What a next state shows; none for a fault or a refusal. -/
def after {α : Type} (o : Result) (f : State → α) : Option α :=
  match o with
  | .next t => some (f t)
  | .fault _ => none
  | .refused _ => none

/-- Right after reset, on the default cartridge changed by f, all stores 0. -/
def onCart (f : Config → Config) : State := State.afterReset (f Config.default) [] [] []

/-- The vectors' MMC3, RevB, 8 and 8 pages, 0x2000 bytes, ZERO. -/
def zero : State := State.reset

/-- The same on an MMC6 with its 1 KB store. -/
def zero6 : State := onCart fun c => { c with variant := .mmc6, wramSize := 0x400 }

/-- Other registers. -/
def regs (f : Regs → Regs) (s : State) : State := { s with regs := f s.regs }

/-- The bank registers of section B3's first table. -/
def banksB3 : Vector Byte 8 := #v[0x04#8, 0x08#8, 0x10#8, 0x11#8, 0x12#8, 0x13#8, 0x05#8, 0x06#8]

/-- The CHR and PRG page lists. -/
def chrPages (c : Config) (r : Regs) : List (Option Nat) := (List.finRange 8).map fun k => (chrEntry c r k).page

def prgPages (c : Config) (r : Regs) : List (Option Nat) := (List.finRange 4).map fun k => (prgEntry c r k).page

/-- The registers of State.reset with the banks and the modes. -/
def windows (b : Vector Byte 8) (chrMode prgMode : Bool) : Regs :=
  { zero.regs with bank := b, chrMode := chrMode, prgMode := prgMode }

/-! ## WellFormed refuses, one ill-formed term a check -/

theorem test_wellFormed_wramctl_mmc3_on_mmc6 : WellFormed zero6.cfg (.wramctlMmc3 0x80#8) = false := by decide
theorem test_wellFormed_wramctl_mmc6_on_mmc3 : WellFormed zero.cfg (.wramctlMmc6 0x80#8) = false := by decide
theorem test_wellFormed_notify_outside_frame : WellFormed zero.cfg (.notify 0x1000 89342) = false := by decide
theorem test_wellFormed_wramrd_below : WellFormed zero.cfg (.wramrd 0x5FFF) = false := by decide
theorem test_wellFormed_wramwr_above : WellFormed zero.cfg (.wramwr 0x8000 0x01#8) = false := by decide
theorem test_wellFormed_prgrd_above : WellFormed zero.cfg (.prgrd 0x10000) = false := by decide
theorem test_wellFormed_chrrd_above : WellFormed zero.cfg (.chrrd 0x2000) = false := by decide
theorem test_wellFormed_chrwr_above : WellFormed zero.cfg (.chrwr 0x2000 0x01#8) = false := by decide

/-! ## Every constructor decodes from its encoding

Words written out from 30_encoding.md R91 and R94: A15 to A0, then the byte; the event rows by R107's lines. -/

theorem test_decode_select : decode .mmc3 (.regw 0b1000000000000000_00000110#24) = .ok (.select 0x06#8) := by rfl
theorem test_decode_data : decode .mmc3 (.regw 0b1001111111111111_00000011#24) = .ok (.data 0x03#8) := by rfl
theorem test_decode_mirror : decode .mmc3 (.regw 0b1010000000000000_00000001#24) = .ok (.mirror 0x01#8) := by rfl
theorem test_decode_wramctl_mmc3 :
    decode .mmc3 (.regw 0b1011111111111111_10000000#24) = .ok (.wramctlMmc3 0x80#8) := by rfl
theorem test_decode_wramctl_mmc6 :
    decode .mmc6 (.regw 0b1011111111111111_10000000#24) = .ok (.wramctlMmc6 0x80#8) := by rfl
theorem test_decode_irqlatch : decode .mmc3 (.regw 0b1100000000000000_00010100#24) = .ok (.irqlatch 0x14#8) := by rfl
theorem test_decode_irqreload : decode .mmc3 (.regw 0b1101111111111111_00000000#24) = .ok (.irqreload 0x00#8) := by rfl
theorem test_decode_irqdis : decode .mmc3 (.regw 0b1110000000000000_00000000#24) = .ok (.irqdis 0x00#8) := by rfl
theorem test_decode_irqen : decode .mmc3 (.regw 0b1111111111111111_00000000#24) = .ok (.irqen 0x00#8) := by rfl

/-- Two addresses whose masked form is no pattern (B1). -/
theorem test_decode_no_pattern : decode .mmc3 (.regw 0b0111111111111111_01010101#24) = .error (.noPattern 0x6001#16) ∧
    decode .mmc6 (.regw 0b0100000100000000_01010101#24) = .error (.noPattern 0x4000#16) := by decide

/-- The instruction of a line. -/
def decodeLine (line : List Char) : Option Instr :=
  match readLine line with
  | .ok e => (decode .mmc3 e).toOption
  | .error _ => none

theorem test_line_select : decodeLine ['W', ' ', '9', 'F', 'F', 'E', ' ', '0', '6'] = some (.select 0x06#8) := by decide
theorem test_line_notify :
    decodeLine ['A', ' ', '1', '0', '0', '8', ' ', '@', '1', '2'] = some (.notify 0x1008 12) := by decide
theorem test_line_wramrd : decodeLine ['M', 'R', ' ', '6', '0', '0', '0'] = some (.wramrd 0x6000) := by decide
theorem test_line_wramwr :
    decodeLine ['M', 'W', ' ', '7', 'F', 'F', 'F', ' ', '7', '7'] = some (.wramwr 0x7FFF 0x77#8) := by decide
theorem test_line_prgrd : decodeLine ['P', 'R', ' ', 'F', 'F', 'F', 'C'] = some (.prgrd 0xFFFC) := by decide
theorem test_line_chrrd : decodeLine ['C', 'R', ' ', '0', '4', '1', '0'] = some (.chrrd 0x0410) := by decide
theorem test_line_chrwr :
    decodeLine ['C', 'W', ' ', '1', '0', '0', '0', ' ', '7', '7'] = some (.chrwr 0x1000 0x77#8) := by decide
theorem test_line_reset : decodeLine ['R', 'S', 'T'] = some .reset := by decide
theorem test_line_snapshot : decodeLine ['S', 'N', 'A', 'P'] = some .snapshot := by decide
theorem test_line_restore : decodeLine ['R', 'E', 'S', 'T', ' ', '3', '4', ' ', '0', 'A'] =
    some (.restore [0x34#8, 0x0A#8]) := by decide
theorem test_line_query : decodeLine ['D', 'B', 'G'] = some .query := by decide

/-- R107's numbers: a byte of three digits and a line of another name are refused, each by its reason. -/
theorem test_line_refused : readLine ['W', ' ', '8', '0', '0', '0', ' ', '1', '0', '0'] = .error .tooLarge ∧
    readLine ['X', ' ', '0'] = .error .noSuchLine ∧ readLine ['P', 'R', ' ', 'G'] = .error .notANumber := by decide

/-- The host's two questions, on one word: the row's instruction, and it runs first after reset. -/
theorem test_decodeTableWord : decodeTableWord 24 0x8000C6 = some (.select 0xC6#8) ∧
    decodeTableWord 24 0x410055 = none ∧ decodeTableWord 0 0 = none := by decide
theorem test_withFetchWord :
    after (step (State.reset.withFetchWord 24 0x8000C6)) (fun t => (t.regs.sel, t.regs.chrMode, t.regs.prgMode, t.input)) =
      some (6#3, true, true, []) := by decide

/-! ## The register writes (B2) -/

theorem test_select_fields :
    after (exec (.select 0xC6#8) zero) (fun t => (t.regs.sel, t.regs.chrMode, t.regs.prgMode)) = some (6#3, true, true) := by
  decide
theorem test_select_ignores_bits_5_to_3 :
    after (exec (.select 0x3F#8) zero) (fun t => (t.regs.sel, t.regs.chrMode, t.regs.prgMode)) = some (7#3, false, false) := by
  decide
theorem test_data_forces_bit0_of_bank1 :
    after (exec (.data 0x85#8) (regs (fun r => { r with sel := 1#3 }) zero)) (fun t => t.regs.bank) =
      some #v[0#8, 0x84#8, 0#8, 0#8, 0#8, 0#8, 0#8, 0#8] := by decide
theorem test_data_keeps_bank2_and_index :
    after (exec (.data 0xFF#8) (regs (fun r => { r with sel := 2#3 }) zero)) (fun t => (t.regs.bank, t.regs.sel)) =
      some (#v[0#8, 0#8, 0xFF#8, 0#8, 0#8, 0#8, 0#8, 0#8], 2#3) := by decide
theorem test_mirror_horizontal :
    after (exec (.mirror 0x01#8) zero) (fun t => (t.regs.mirr, mirroring t.cfg t.regs)) = some (true, .horizontal) := by decide
theorem test_mirror_vertical :
    after (exec (.mirror 0xFE#8) zero) (fun t => (t.regs.mirr, mirroring t.cfg t.regs)) = some (false, .vertical) := by decide
theorem test_wramctl_mmc3_protects :
    after (exec (.wramctlMmc3 0xC0#8) zero) (fun t => (t.regs.wramEn, t.regs.wramWp, lowPerm t.cfg t.regs, t.regs.h1r)) =
      some (true, true, .r, false) := by decide
theorem test_wramctl_mmc3_disables :
    after (exec (.wramctlMmc3 0x40#8) zero) (fun t => (t.regs.wramEn, t.regs.wramWp, lowPerm t.cfg t.regs)) =
      some (false, true, .none) := by decide
theorem test_wramctl_mmc6_halves :
    after (exec (.wramctlMmc6 0xB0#8) zero6)
      (fun t => (lowPermHalf t.cfg t.regs .h0, lowPermHalf t.cfg t.regs .h1, t.regs.wramEn)) = some (.rw, .r, false) := by
  decide
theorem test_wramctl_mmc6_write_only :
    after (exec (.wramctlMmc6 0x1F#8) zero6) (fun t => (lowPermHalf t.cfg t.regs .h0, lowPermHalf t.cfg t.regs .h1)) =
      some (.w, .none) := by decide
theorem test_irqlatch :
    after (exec (.irqlatch 0x14#8) (regs (fun r => { r with irqCount := 9#8 }) zero))
      (fun t => (t.regs.irqLatch, t.regs.irqCount)) = some (0x14#8, 9#8) := by decide
theorem test_irqreload :
    after (exec (.irqreload 0xFF#8) (regs (fun r => { r with irqCount := 7#8, irqLatch := 3#8 }) zero))
      (fun t => (t.regs.irqCount, t.regs.irqReload, t.regs.irqLatch, t.irqLine)) = some (0#8, true, 3#8, false) := by decide
theorem test_irqdis :
    after (exec (.irqdis 0xFF#8) { regs (fun r => { r with irqEn := true, irqCount := 7#8, irqReload := true }) zero with irqLine := true })
      (fun t => (t.regs.irqEn, t.irqLine, t.regs.irqCount, t.regs.irqReload)) = some (false, false, 7#8, true) := by decide
theorem test_irqen_asserts_nothing :
    after (exec (.irqen 0x00#8) zero) (fun t => (t.regs.irqEn, t.irqLine)) = some (true, false) := by decide
theorem test_irqen_acknowledges_nothing :
    after (exec (.irqen 0x00#8) { zero with irqLine := true }) (fun t => (t.regs.irqEn, t.irqLine)) = some (true, true) := by
  decide

/-! ## The windows (B3) -/

theorem test_windows_chr_modes :
    chrPages { Config.default with chrPages := 256 } (windows banksB3 false false) =
      [some 4, some 5, some 8, some 9, some 16, some 17, some 18, some 19] ∧
    chrPages { Config.default with chrPages := 256 } (windows banksB3 true false) =
      [some 16, some 17, some 18, some 19, some 4, some 5, some 8, some 9] := by decide
theorem test_windows_chr_wrap :
    chrPages { Config.default with chrPages := 5 } (windows #v[0xFE#8, 0x0A#8, 7#8, 8#8, 9#8, 0xFF#8, 0#8, 0#8] false false) =
      [some 4, some 0, some 0, some 1, some 2, some 3, some 4, some 0] := by decide
theorem test_windows_prg_modes :
    prgPages { Config.default with prgPages := 32 } (windows banksB3 false false) = [some 5, some 6, some 30, some 31] ∧
    prgPages { Config.default with prgPages := 32 } (windows banksB3 false true) = [some 30, some 6, some 5, some 31] := by
  decide

/-- The banks of B3's PRG wrap-around table. -/
def banksWrap : Vector Byte 8 := #v[0#8, 0#8, 0#8, 0#8, 0#8, 0#8, 0xFF#8, 0x0B#8]

theorem test_windows_prg_wrap :
    prgPages { Config.default with prgPages := 6 } (windows banksWrap false false) = [some 3, some 5, some 4, some 5] ∧
    prgPages { Config.default with prgPages := 3 } (windows banksWrap false true) = [some 1, some 2, some 0, some 2] ∧
    prgPages { Config.default with prgPages := 1 } (windows banksWrap false true) = [some 0, some 0, some 0, some 0] ∧
    prgPages { Config.default with prgPages := 0 } (windows banksWrap false false) = [none, none, none, none] := by decide

/-! ## The counter (B4) and the edge watcher (B5) -/

/-- Count after and line after of one clock, enabled, under both revisions. -/
def clocked (prev : Byte) (pending : Bool) (latch : Byte) : Byte × Bool × Bool × Byte :=
  let s := regs (fun r => { r with irqCount := prev, irqReload := pending, irqLatch := latch, irqEn := true }) zero
  let b := clockIrq s
  let a := clockIrq { s with cfg := { s.cfg with revision := .revA } }
  (b.regs.irqCount, b.irqLine, a.irqLine, a.regs.irqCount)

theorem test_clock_matrix_prev_zero :
    [clocked 0#8 false 0#8, clocked 0#8 false 3#8, clocked 0#8 true 0#8, clocked 0#8 true 3#8] =
      [(0#8, true, false, 0#8), (3#8, false, false, 3#8), (0#8, true, true, 0#8), (3#8, false, false, 3#8)] := by decide
theorem test_clock_matrix_prev_positive :
    [clocked 1#8 false 3#8, clocked 1#8 true 0#8, clocked 1#8 true 3#8, clocked 2#8 false 3#8, clocked 255#8 false 0#8] =
      [(0#8, true, true, 0#8), (0#8, true, true, 0#8), (3#8, false, false, 3#8), (1#8, false, false, 1#8),
        (254#8, false, false, 254#8)] := by decide

/-- A state of the watcher. -/
def watching (last : Bool) (stamp : Nat) : State :=
  regs (fun r => { r with ewLast := last, ewStamp := stamp, irqLatch := 1#8 }) zero

/-- What a notification leaves of the watcher and the counter. -/
def notified (s : State) (a c : Nat) : Option (Bool × Nat × Byte) :=
  after (exec (.notify a c) s) fun t => (t.regs.ewLast, t.regs.ewStamp, t.regs.irqCount)

theorem test_notify_too_soon : notified (watching false 0) 0x1000 6 = some (false, 0, 0#8) := by decide
theorem test_notify_rise_reloads : notified (watching false 0) 0x1008 12 = some (true, 12, 1#8) := by decide
theorem test_notify_fall_clocks_nothing : notified (watching true 12) 0x0008 22 = some (false, 22, 0#8) := by decide
theorem test_notify_frame_wrap : notified (watching false 89340) 0x1000 6 = some (false, 89340, 0#8) ∧
    notified (watching false 89340) 0x11000 8 = some (true, 8, 1#8) := by decide

/-! ## Window-gated accesses (B7) -/

/-- MMC3 working memory enabled, 0x5A at its first byte. -/
def wramOpen : State := { regs (fun r => { r with wramEn := true }) zero with wram := [(0, 0x5A#8)] }

theorem test_wramrd : after (exec (.wramrd 0x6000) wramOpen) (fun t => t.returned) = some (.byte 0x5A#8) := by decide
theorem test_wramrd_denied_draws : exec (.wramrd 0x6000) zero = .next { zero with returned := .byte (Config.openBus 0), draws := 1 } := rfl
theorem test_wramwr : after (exec (.wramwr 0x7FFF 0x77#8) wramOpen) (fun t => t.wram) =
    some [(0, 0x5A#8), (0x1FFF, 0x77#8)] := by decide
theorem test_wramwr_protected :
    after (exec (.wramwr 0x6000 0xA5#8) (regs (fun r => { r with wramWp := true }) wramOpen)) (fun t => t.wram) =
      some [(0, 0x5A#8)] := by decide

/-- low_lookup of B7's table, MMC6 with byte B0. -/
def lookupB0 (m : LowHalfMap) (size a : Nat) : Perm × Nat :=
  lowLookup { Config.default with variant := .mmc6, wramSize := size, lowHalfMap := m }
    (wramctlMmc6Regs 0xB0#8 zero.regs) a

theorem test_lookup_half_mmc6 :
    [0x71FF, 0x7200, 0x7400, 0x7600, 0x7FFF].map (lookupB0 .halfMmc6 0x400) =
      [(.rw, 0x1FF), (.r, 0x200), (.rw, 0), (.r, 0x200), (.r, 0x3FF)] ∧ (lookupB0 .halfMmc6 0x400 0x6FFF).1 = .none := by
  decide
theorem test_lookup_half_literal :
    [0x6000, 0x6FFF, 0x7000, 0x7FFF].map (lookupB0 .halfLiteral 0x2000) =
      [(.rw, 0), (.rw, 0xFFF), (.r, 0x1000), (.r, 0x1FFF)] := by decide
theorem test_prgrd_last_byte_of_page :
    after (exec (.prgrd 0xFFFC) { zero with prg := [(0xFFFC, 0xC3#8)] }) (fun t => t.returned) = some (.byte 0xC3#8) := by
  decide
theorem test_chrrd_odd_page_of_pair :
    after (exec (.chrrd 0x0410) { regs (fun r => { r with bank := banksB3 }) zero with chr := [(0x1410, 0x99#8)] })
      (fun t => t.returned) = some (.byte 0x99#8) := by decide
theorem test_chrwr_stores :
    after (exec (.chrwr 0x1000 0x77#8)
        { regs (fun r => { r with bank := #v[0#8, 0#8, 9#8, 0#8, 0#8, 0#8, 0#8, 0#8] }) zero with
          cfg := { Config.default with chrPages := 256, chrPerm := .rw } })
      (fun t => t.chr) = some [(0x2400, 0x77#8)] := by decide
theorem test_chrwr_rom_drops : exec (.chrwr 0x0000 0x77#8) zero = .next zero := rfl

/-! ## Reset (B8), snapshot and restore (B6), the query -/

/-- The cartridge whose power-on function answers 0xFF. -/
def ones : State := onCart fun c => { c with powerOn := PowerOn.const 0xFF#8 }

theorem test_reset_zero : State.reset.regs =
    { bank := #v[0#8, 0#8, 0#8, 0#8, 0#8, 0#8, 0#8, 0#8], sel := 0#3, prgMode := false, chrMode := false, mirr := false,
      wramEn := false, wramWp := false, h0r := false, h0w := false, h1r := false, h1w := false, irqLatch := 0#8,
      irqCount := 0#8, irqReload := false, irqEn := false, ewLast := false, ewStamp := 0 } := by decide
theorem test_reset_ones :
    after (exec .reset { ones with irqLine := true }) (fun t => (t.regs.sel, t.regs.bank, t.regs.ewStamp, t.irqLine)) =
      some (7#3, #v[0xFE#8, 0xFE#8, 0xFF#8, 0xFF#8, 0xFF#8, 0xFF#8, 0xFF#8, 0xFF#8], 255, false) := by decide
theorem test_reset_ones_windows : prgPages ones.cfg ones.regs = [some 6, some 7, some 7, some 7] ∧
    chrPages ones.cfg ones.regs = [some 7, some 7, some 7, some 7, some 6, some 7, some 6, some 7] := by decide

/-- The registers of B6 and the blob it lists for them. -/
def regsB6 : Regs :=
  { zero.regs with
    bank := #v[0x34#8, 0#8, 0#8, 0#8, 0#8, 0#8, 0x0A#8, 0#8], chrMode := true, prgMode := true, mirr := true,
    wramEn := true, irqLatch := 0x14#8, irqCount := 0x14#8, irqEn := true, ewLast := true, ewStamp := 300 }

def blobB6 : List Byte :=
  [0x34#8, 0#8, 0#8, 0#8, 0#8, 0#8, 0x0A#8, 0#8, 0xC0#8, 0x01#8, 0x80#8, 0#8, 0x14#8, 0x14#8, 0x01#8, 0x01#8,
    0x2C#8, 0x01#8, 0#8, 0#8]

theorem test_snapshot : after (exec .snapshot { zero with regs := regsB6 }) (fun t => t.returned) = some (.blob blobB6) := by
  decide
theorem test_restore :
    after (exec (.restore blobB6) { ones with irqLine := true }) (fun t => (t.regs, t.irqLine, t.returned)) =
      some (regsB6, true, .void) := by decide
theorem test_restore_refuses :
    [blobB6.take 19, blobB6.set 0 0x35#8, blobB6.set 9 0x03#8, blobB6.take 16 ++ [0xFF#8, 0xFF#8, 0xFF#8, 0xFF#8], []].map
      (decodeBlob Config.default) = [none, none, none, none, none] := by decide
theorem test_query_lists_every_item : (queryItems .mmc3).length = 39 ∧ (queryItems .mmc6).length = 40 := by decide

/-! ## Witnesses: the hypotheses of the obligations are met, clause by clause, at boundary values -/

theorem witness_RegisterRowByAddressLines :
    (0x7FFF#16).getLsbD 15 = false ∧ (0x8000#16).getLsbD 15 = true ∧ (0xFFFF#16).getLsbD 15 = true := by decide

theorem witness_DecodeEncode :
    ([Instr.wramctlMmc3 0x80#8, Instr.notify 0x1000 89341, Instr.wramrd 0x6000, Instr.wramwr 0x7FFF 1#8,
      Instr.prgrd 0xFFFF, Instr.chrrd 0, Instr.chrwr 0x1FFF 1#8, Instr.restore []].all (WellFormed zero.cfg)) = true ∧
    WellFormed zero6.cfg (.wramctlMmc6 0xFF#8) = true := by decide

theorem witness_DecodeDropsOnlyIgnoredLines :
    decode .mmc3 (.regw 0x9FFE06#24) = .ok (.select 0x06#8) ∧ decode .mmc3 (.memr .wram 0x6000) = .ok (.wramrd 0x6000) :=
  ⟨rfl, rfl⟩

/-- One operation in the input. -/
def given (e : Event) (s : State) : State := { s with input := [e] }

theorem witness_StepRunsDecoded : (given (.write 0x9FFE#16 6#8) zero).input = .write 0x9FFE#16 6#8 :: [] ∧
    decode (given (.write 0x9FFE#16 6#8) zero).cfg.variant (.write 0x9FFE#16 6#8) = .ok (.select 6#8) := ⟨rfl, rfl⟩

theorem witness_UnmatchedWriteHasNoEffect : (0x7FFF#16).toNat < 0x8000 ∧
    (given (.write 0x7FFF#16 0x55#8) zero).input = .write 0x7FFF#16 0x55#8 :: [] := ⟨by decide, rfl⟩

theorem witness_EveryOperationIsTotal :
    exec (.restore []) zero = .next { zero with returned := .restoreFailure [] } := rfl

theorem witness_StepStopsOnlyAtEndOfInput : (given (.sys .query) zero).input ≠ [] ∧ zero.input = [] := ⟨by decide, rfl⟩

theorem witness_ResetTakesPowerOnBytes : ones.cfg.frameCycles = some 89342 ∧
    (onCart fun c => { c with frameCycles := some 1 }).cfg.frameCycles = some 1 ∧
    (onCart fun c => { c with frameCycles := none }).cfg.frameCycles = none := ⟨rfl, rfl, rfl⟩

theorem witness_ResetCertainties : exec .reset ones = .next ones ∧ ones.cfg.prgPages = 8 ∧
    exec .reset (onCart fun c => { c with prgPages := 1 }) = .next (onCart fun c => { c with prgPages := 1 }) ∧
    exec .reset (onCart fun c => { c with prgPages := 2 }) = .next (onCart fun c => { c with prgPages := 2 }) :=
  ⟨rfl, rfl, rfl, rfl⟩

theorem witness_ResetStateInv : Config.default.wf = true ∧
    (Memory.wf [(0, 1#8), (0xFFFF, 1#8)] ∧ Memory.within (Config.default.prgPages * 0x2000) [(0, 1#8), (0xFFFF, 1#8)]) ∧
    (Memory.wf [(0x1FFF, 1#8)] ∧ Memory.within (Config.default.chrPages * 0x400) [(0x1FFF, 1#8)]) ∧
    (Memory.wf [(0x1FFF, 1#8)] ∧ Memory.within Config.default.wramSize [(0x1FFF, 1#8)]) := by decide

theorem witness_SelectLatchesIndexAndModes :
    (after (exec (.select 0xC0#8) zero) fun t => (t.regs.chrMode != zero.regs.chrMode, t.regs.prgMode != zero.regs.prgMode)) =
      some (true, true) ∧ 0x9FFE#16 &&& 0xE001#16 = 0x8000#16 := by decide

theorem witness_DataWritesSelectedBank : (1#3).toNat ≤ 1 ∧ 2 ≤ (2#3).toNat ∧ (3 : Fin 8).val ≠ (2#3).toNat ∧
    0x9FFF#16 &&& 0xE001#16 = 0x8001#16 := by decide

theorem witness_MirrorChangesMirroringOnly : zero.cfg.fourScreen = false ∧
    (onCart fun c => { c with fourScreen := true }).cfg.fourScreen = true ∧ 0xBFFE#16 &&& 0xE001#16 = 0xA000#16 := by decide

theorem witness_WramctlMmc3SetsLowPermission : zero.cfg.variant = .mmc3 := rfl

theorem witness_WramctlMmc6SetsHalfPermissions : zero6.cfg.variant = .mmc6 ∧ zero6.cfg.wramSize ≠ 0 ∧
    (onCart fun c => { c with variant := .mmc6, wramSize := 0 }).cfg.wramSize = 0 := by decide

theorem witness_IrqlatchStoresReloadValue : zero.regs.irqCount = 0#8 ∧
    (regs (fun r => { r with irqCount := 1#8, irqReload := true }) zero).regs.irqReload = true ∧
    0xDFFE#16 &&& 0xE001#16 = 0xC000#16 := by decide

theorem witness_IrqreloadZeroesCounter : 0xDFFF#16 &&& 0xE001#16 = 0xC001#16 := by decide

theorem witness_IrqdisAcknowledges : 0xFFFE#16 &&& 0xE001#16 = 0xE000#16 := by decide

theorem witness_IrqenSetsEnableOnly : 0xFFFF#16 &&& 0xE001#16 = 0xE001#16 := by decide

theorem witness_ChrWindowPages : zero.regs.valid zero.cfg = true ∧ 0 < zero.cfg.chrPages ∧
    (windows banksB3 true false).valid { zero.cfg with chrPages := 1 } = true := by decide

theorem witness_PrgWindowPages : 0 < zero.cfg.prgPages ∧ 0 < (onCart fun c => { c with prgPages := 1 }).cfg.prgPages := by
  decide

theorem witness_LowWindowPermissions : lowPerm wramOpen.cfg wramOpen.regs ≠ .none ∧ zero6.cfg.wramSize ≠ 0 ∧
    (onCart fun c => { c with wramSize := 0 }).cfg.wramSize = 0 := by decide

theorem witness_TargetsInsideStores : prgTarget zero.cfg zero.regs 0xFFFF = some (.r, 0xFFFF) ∧
    chrTarget zero.cfg zero.regs 0x0FFF = some (.r, 0x07FF) ∧
    lowTarget wramOpen.cfg wramOpen.regs 0x7FFF = some (.rw, 0x1FFF) := by decide

/-- An MMC6 with another half map. -/
def mapped (m : LowHalfMap) : Config := { zero6.cfg with lowHalfMap := m }

theorem witness_LowHalfMapForms : zero6.cfg.variant = .mmc6 ∧ zero6.cfg.lowHalfMap = .halfMmc6 ∧ 0xFFF < 0x1000 ∧ 3 < 4 ∧
    0x3FF < 0x400 ∧ (mapped .halfLiteral).variant = .mmc6 ∧ (mapped .halfLiteral).lowHalfMap = .halfLiteral ∧
    (mapped (.table [some (.h1, 0x401), none])).variant = .mmc6 ∧
    [some (Half.h1, 0x401), none][0]? = some (some (.h1, 0x401)) ∧ [some (Half.h1, 0x401), none][1]? = some none ∧
    [some (Half.h1, 0x401), none][0x1FFF]? = none ∧ 0x1FFF < 0x2000 := by decide

/-- R62's table form: entry 0 is the image of LOW_BASE, its offset reduced, entry 1 is outside. -/
theorem test_lookup_table :
    lowHalfMap (mapped (.table [some (.h1, 0x401), none])) 0x6000 = some (.h1, 1) ∧
    lowHalfMap (mapped (.table [some (.h1, 0x401), none])) 0x6001 = none ∧
    lowHalfMap (mapped (.table [some (.h1, 0x401), none])) 0x7FFF = none := by decide

theorem witness_NextReadSeesNewMode : 2 ≤ (onCart fun c => { c with prgPages := 2 }).cfg.prgPages ∧ 0x1FFF < 0x2000 := by
  decide

theorem witness_PrgrdReturnsWindowByte : 0xFFFF = 0x8000 + (3 : Fin 4).val * 0x2000 + 0x1FFF ∧ 0x1FFF < 0x2000 ∧
    (prgEntry zero.cfg zero.regs 3).page = some 7 ∧ (onCart fun c => { c with prgPages := 0 }).cfg.prgPages = 0 ∧
    0x7FFF < 0x8000 ∧ 0x10000 ≤ 0x10000 := by decide

theorem witness_ChrrdReturnsWindowByte : 0x1FFF = (7 : Fin 8).val * 0x400 + 0x3FF ∧ 0x3FF < 0x400 ∧
    canRead zero.cfg.chrPerm = true ∧ (chrEntry zero.cfg zero.regs 7).page = some 0 ∧
    (onCart fun c => { c with chrPages := 0 }).cfg.chrPages = 0 ∧
    canRead (onCart fun c => { c with chrPerm := .w }).cfg.chrPerm = false ∧ 0x2000 ≤ 0x2000 := by decide

/-- A cartridge with pattern RAM. -/
def chrRam : State := onCart fun c => { c with chrPerm := .rw }

theorem witness_ChrwrStoresOrDrops : writable (chrTarget chrRam.cfg chrRam.regs 0x1FFF) = some 0x3FF ∧
    writable (chrTarget zero.cfg zero.regs 0x1FFF) = none ∧ 0x1FFF = (7 : Fin 8).val * 0x400 + 0x3FF ∧
    canWrite chrRam.cfg.chrPerm = true ∧ (chrEntry chrRam.cfg chrRam.regs 7).page = some 0 ∧
    canWrite zero.cfg.chrPerm = false ∧ (onCart fun c => { c with chrPages := 0 }).cfg.chrPages = 0 := by decide

theorem witness_WramrdMmc3 : wramOpen.cfg.variant = .mmc3 ∧ 0x1FFF < 0x2000 ∧
    (wramOpen.cfg.wramSize ≠ 0 ∧ wramOpen.regs.wramEn = true) ∧ zero.regs.wramEn = false ∧
    (onCart fun c => { c with wramSize := 0 }).cfg.wramSize = 0 := by decide

/-- MMC6 working memory with both halves open. -/
def halvesOpen : State := regs (fun r => { r with h0r := true, h0w := true, h1r := true, h1w := true }) zero6

theorem witness_WramrdMmc6 : halvesOpen.cfg.variant = .mmc6 ∧ lowHalfMap halvesOpen.cfg (0x6000 + 0xFFF) = none ∧
    lowHalfMap halvesOpen.cfg (0x6000 + 0x1000) = some (.h0, 0) ∧ lowHalfMap halvesOpen.cfg (0x6000 + 0x1FFF) = some (.h1, 0x3FF) ∧
    halvesOpen.cfg.wramSize ≠ 0 ∧ halvesOpen.regs.h0r = true ∧ halvesOpen.regs.h1r = true ∧ zero6.regs.h0r = false := by decide

theorem witness_WramwrMmc3 : writable (lowTarget wramOpen.cfg wramOpen.regs (0x6000 + 0x1FFF)) = some 0x1FFF ∧
    writable (lowTarget zero.cfg zero.regs (0x6000 + 0x1FFF)) = none ∧ wramOpen.cfg.variant = .mmc3 := by decide

theorem witness_WramwrMmc6 : halvesOpen.cfg.variant = .mmc6 ∧
    writable (lowTarget halvesOpen.cfg halvesOpen.regs (0x6000 + 0x1FFF)) = some 0x3FF ∧
    writable (lowTarget zero6.cfg zero6.regs (0x6000 + 0x1FFF)) = none ∧ lowHalfMap zero6.cfg (0x6000 + 0xFFF) = none ∧
    lowHalfMap halvesOpen.cfg (0x6000 + 0x1200) = some (.h1, 0x200) := by decide

theorem witness_OutOfWindowAccesses : 0x5FFF < 0x6000 ∧ 0x8000 ≤ 0x8000 ∧ 0x7FFF < 0x8000 ∧ 0x10000 ≤ 0x10000 ∧
    0x2000 ≤ 0x2000 := by decide

theorem witness_NotifyWithoutRise : (0x0FFF : Nat).testBit 12 = zero.regs.ewLast ∧
    debounceOk zero.cfg zero.regs.ewLast zero.regs.ewStamp ((0x1000 : Nat).testBit 12) 9 = false ∧
    ((0x0FFF : Nat).testBit 12 = false ∧ (watching true 12).regs.ewLast = true ∧
      debounceOk (watching true 12).cfg true (watching true 12).regs.ewStamp false 22 = true) := by decide

theorem witness_ClockIrqAlgorithm : zero.regs.irqCount = 0#8 ∧ zero.cfg.revision = .revB ∧
    (let s := regs (fun r => { r with irqCount := 255#8 }) (onCart fun c => { c with revision := .revA })
     s.regs.irqCount ≠ 0#8 ∧ s.regs.irqReload = false ∧ s.cfg.revision = .revA) := by decide

theorem witness_NotifyRiseClocksCounter : (0x1000 : Nat).testBit 12 = true ∧ (watching false 0).regs.ewLast = false ∧
    debounceOk (watching false 0).cfg false (watching false 0).regs.ewStamp true 10 = true ∧
    (watching false 0).regs.irqCount = 0#8 ∧ (watching false 0).cfg.revision = .revB := by decide

/-- The second pair of clauses: a positive count, no reload pending, Revision A. -/
theorem witness_NotifyRiseClocksCounter_revA :
    (let s := regs (fun r => { r with irqCount := 1#8 }) (onCart fun c => { c with revision := .revA })
     s.regs.ewLast = false ∧ debounceOk s.cfg false s.regs.ewStamp true 10 = true ∧ s.regs.irqCount ≠ 0#8 ∧
     s.regs.irqReload = false ∧ s.cfg.revision = .revA) := by decide

theorem witness_NotifyReadsBit12Only : (0x1000 : Nat).testBit 12 = (0x11FFF : Nat).testBit 12 ∧
    (0 : Nat).testBit 12 = (0x2FFF : Nat).testBit 12 := by decide

theorem witness_DebGapElapsed : zero.cfg.frameCycles = some 89342 ∧ 89341 < 89342 ∧ 0 < 89342 ∧ zero.cfg.debounce = .gap ∧
    (onCart fun c => { c with frameCycles := none }).cfg.frameCycles = none ∧ 7 ≤ 7 := by decide

theorem witness_RevisionMatrix : zero.cfg.revision = .revB ∧ (onCart fun c => { c with revision := .revA }).cfg.revision = .revA ∧
    (let r := { zero.regs with irqEn := true }
     r.irqCount = 0#8 ∧ r.irqReload = false ∧ r.irqLatch = 0#8 ∧ r.irqEn = true) := by decide

theorem witness_CounterPeriod :
    (let s := regs (fun r => { r with irqLatch := 255#8, irqReload := true, irqEn := true }) zero
     0 < s.regs.irqLatch.toNat ∧ s.regs.irqCount = 0#8 ∧ s.regs.irqReload = true ∧ s.regs.irqEn = true) := by decide

theorem witness_CounterWithZeroReload :
    (let s := regs (fun r => { r with irqReload := true, irqEn := true }) zero
     s.regs.irqLatch = 0#8 ∧ s.regs.irqCount = 0#8 ∧ s.regs.irqReload = true ∧ s.regs.irqEn = true) := by decide

/-- A rise and a fall, both accepted. -/
def risingFalling : State := { zero with input := [.note 0x1000 10, .memr .prg 0x8000, .note 0 20] }

theorem witness_AcceptedTransitionsAlternate :
    (∀ e ∈ risingFalling.input, e ≠ .sys .reset ∧ ∀ b, e ≠ .sys (.restore b)) ∧
    (runTransitions 3 risingFalling)[0]? = some .rise ∧ (runTransitions 3 risingFalling)[1]? = some .fall := by
  refine ⟨?_, by decide, by decide⟩
  simp [risingFalling]

/-- Enabled, one clock from the end of the count. -/
def armed : State := regs (fun r => { r with irqCount := 1#8, irqEn := true }) zero

theorem witness_LineChangesOnlyBy :
    ((after (exec (.notify 0x1000 10) armed) fun t => t.irqLine) = some true ∧ armed.irqLine = false) ∧
    (after (exec (.irqdis 0#8) { armed with irqLine := true }) fun t => t.irqLine) = some false ∧
    (after (exec .reset { armed with irqLine := true }) fun t => t.irqLine) = some false := by decide

theorem witness_LineHeldOverRuns :
    run 1 { zero with irqLine := true, input := [.sys .query] } =
      .next { zero with irqLine := true, returned := .table ((queryItems .mmc3).map (queryRow { zero with irqLine := true })) } ∧
    (∀ e ∈ [Event.sys .query], decode .mmc3 e ≠ .ok .reset ∧ ∀ x, decode .mmc3 e ≠ .ok (.irqdis x)) := by
  refine ⟨rfl, ?_⟩
  simp [decode]

theorem witness_NoStepChangesCfgOrPrg : step (given (.sys .snapshot) zero) =
    .next { zero with returned := .blob (encodeBlob zero.regs) } := rfl

theorem witness_StoresChangedOnlyByTheirWrites :
    (after (exec (.chrwr 0x1FFF 1#8) chrRam) fun t => (t.memRead .chr 0x3FF, chrRam.memRead .chr 0x3FF)) = some (1#8, 0#8) ∧
    (after (exec (.wramwr 0x6000 1#8) wramOpen) fun t => (t.memRead .wram 0, wramOpen.memRead .wram 0)) =
      some (1#8, 0x5A#8) := by decide

theorem witness_WatcherAndCounterChangedOnlyBy :
    exec (.irqen 0#8) zero = .next { zero with regs := { zero.regs with irqEn := true } } ∧
    (∀ a c, Instr.irqen 0#8 ≠ .notify a c) ∧ Instr.irqen 0#8 ≠ .reset ∧ (∀ b, Instr.irqen 0#8 ≠ .restore b) ∧
    (∀ x, Instr.irqen 0#8 ≠ .irqreload x) := by
  refine ⟨rfl, ?_, ?_, ?_, ?_⟩ <;> simp

theorem witness_InactiveVariantBitsAreInert : zero.cfg.variant = .mmc3 ∧ zero6.cfg.variant = .mmc6 ∧
    Instr.wramrd 0x7000 ≠ .reset ∧ Instr.wramrd 0x7000 ≠ .snapshot ∧ Instr.wramrd 0x7000 ≠ .query ∧
    (∀ b, Instr.wramrd 0x7000 ≠ .restore b) := by simp [zero, zero6, onCart, State.reset, State.afterReset, Config.default]

theorem witness_StepKeepsInv : State.Inv { wramOpen with input := [.memw .wram 0x7FFF 1#8, .note 0x1000 89341] } ∧
    (after (step { wramOpen with input := [.memw .wram 0x7FFF 1#8, .note 0x1000 89341] }) fun t => t.wram) =
      some [(0, 0x5A#8), (0x1FFF, 1#8)] := by
  refine ⟨⟨by decide, by decide, by decide, by decide, by decide, by decide⟩, by decide⟩

theorem witness_BootDeterminesRegisters : 0xC0#8 &&& 0x3F#8 = 0#8 ∧ zero.cfg.variant = .mmc3 ∧ zero6.cfg.variant = .mmc6 := by
  decide

theorem witness_SnapshotLayout : (regs (fun _ => regsB6) zero).regs.ewStamp < 2 ^ 32 := by decide

theorem witness_DecodeEncodeBlob : encodeBlob regsB6 = blobB6 ∧ regsB6.valid Config.default = true := by decide

theorem witness_RestoreSetsFieldsOrFails : regsB6.valid zero.cfg = true ∧ encodeBlob regsB6 = blobB6 ∧
    (∀ r, r.valid zero.cfg = true → encodeBlob r ≠ []) := ⟨by decide, by decide, fun r _ => by simp [encodeBlob]⟩

theorem witness_RestoreRefusesMalformedBlobs : zero.cfg.frameCycles = some 89342 ∧ 89342 ≤ 2 ^ 32 ∧
    (blobB6.take 19).length ≠ 20 ∧
    ((blobB6.set 0 0x35#8)[0]? = some 0x35#8 ∧ (0x35#8).getLsbD 0 = true) ∧
    ((blobB6.set 9 0x03#8)[9]? = some 0x03#8 ∧ 0x03#8 &&& 0xFE#8 ≠ 0#8) ∧
    ((blobB6.take 16 ++ [0xFE#8, 0x5C#8, 0x01#8, 0x00#8])[17]? = some 0x5C#8 ∧
      89342 ≤ (0xFE#8).toNat + 256 * (0x5C#8).toNat + 65536 * (0x01#8).toNat + 16777216 * (0x00#8).toNat) := by decide

theorem witness_SnapshotRoundTrip : zero.regs.valid zero.cfg = true ∧ [Event.note 0x1000 10] ≠ [] := by decide

theorem witness_QueryReportsEveryValue : zero.cfg.variant = .mmc3 ∧ zero6.cfg.variant = .mmc6 := by decide

theorem witness_BusRouting : 0x8000 ≤ (0x8000#16).toNat ∧ 0x6000 ≤ (0x6000#16).toNat ∧ (0x7FFF#16).toNat < 0x8000 ∧
    (0x5FFF#16).toNat < 0x6000 ∧ 0x1FFF < 0x2000 ∧ 0x2000 ≤ 0x2000 := by decide

/-- R53's video ranges at their edge, and the address bus above it. -/
theorem test_route_video : route (.videoRead 0x1FFF) = some (.memr .chr 0x1FFF) ∧ route (.videoRead 0x2000) = none ∧
    route (.videoWrite 0x2000 1#8) = none ∧ route (.videoAddress 0x3000 7) = some (.note 0x3000 7) := by decide

end Sys2Proof.Tests
end

namespace Sys2Proof.Machine

/-! What one operation can do, said once for all nineteen: every ending of `exec`, with the guard of each store. -/

/-- The states the operation `i` can end in when it runs on `s`. -/
inductive Ending (i : Instr) (s : State) : State → Prop where
  /-- The register writes but IRQDIS, NOTIFY and an accepted RESTORE: new registers. -/
  | sets (r : Regs) : Ending i s ((s.setRegs r).answer .void)
  /-- A NOTIFY whose clock asserts the interrupt (42_irq_counter.md R181). -/
  | asserts (r : Regs) (a c : Nat) (op : i = .notify a c) (rise : classify s.cfg s.regs a c = .rise) :
      Ending i s ((s.setRegs r).assertIrq.answer .void)
  /-- RESET and IRQDIS: new registers and the line cleared. -/
  | clears (r : Regs) (op : i = .reset ∨ ∃ x, i = .irqdis x) : Ending i s ((s.setRegs r).clearIrq.answer .void)
  /-- Allowed reads, dropped writes, SNAPSHOT, QUERY and a refused RESTORE: only the returned value is new. -/
  | answers (x : Returned) (failure : ∀ b, x = .restoreFailure b → i = .restore b) : Ending i s (s.answer x)
  /-- A denied read (20_memory.md R60). -/
  | draws : Ending i s s.drawByte
  /-- An allowed CHRWR (43_memory_access.md R206). -/
  | storesChr (a off : Nat) (v : Byte) (op : i = .chrwr a v)
      (target : writable (chrTarget s.cfg s.regs a) = some off) : Ending i s ((s.memWrite .chr off v).answer .void)
  /-- An allowed WRAMWR (43_memory_access.md R202). -/
  | storesWram (a off : Nat) (v : Byte) (op : i = .wramwr a v)
      (target : writable (lowTarget s.cfg s.regs a) = some off) : Ending i s ((s.memWrite .wram off v).answer .void)

/-- A NOTIFY sets the watcher's registers; on a Rise also the counter's, and the line when the clock fires. -/
theorem execNotify_ending (a c : Nat) (s : State) :
    ∃ t, execNotify a c s = .next t ∧ Ending (.notify a c) s t := by
  refine ⟨_, execNotify_eq a c s, ?_⟩
  split
  case isFalse => exact .sets _
  case isTrue rise =>
    unfold clockIrq
    split
    · exact .asserts _ a c rfl rise
    · exact .sets _

theorem gatedRead_ending (i : Instr) (s : State) (sp : Space) (target : Option Nat) :
    ∃ t, gatedRead s sp target = .next t ∧ Ending i s t := by
  cases target with
  | none => exact ⟨_, rfl, .draws⟩
  | some off => exact ⟨_, rfl, .answers _ nofun⟩

/-- A gated write drops its byte, or ends in the state that stores it. -/
theorem gatedWrite_ending {i : Instr} {s : State} {sp : Space} {target : Option Nat} {v : Byte}
    (stores : ∀ off, target = some off → Ending i s ((s.memWrite sp off v).answer .void)) :
    ∃ t, gatedWrite s sp target v = .next t ∧ Ending i s t := by
  cases target with
  | none => exact ⟨_, rfl, .answers _ nofun⟩
  | some off => exact ⟨_, rfl, stores off rfl⟩

theorem execRestore_ending (blob : List Byte) (s : State) :
    ∃ t, execRestore blob s = .next t ∧ Ending (.restore blob) s t := by
  unfold execRestore
  cases decodeBlob s.cfg blob with
  | some r => exact ⟨_, rfl, .sets r⟩
  | none => exact ⟨_, rfl, .answers _ fun b hb => by injection hb with hb; rw [hb]⟩

/-- Every operation ends in a next state, and in no other way than `Ending` lists (00_scope.md R15). -/
theorem exec_ending (i : Instr) (s : State) : ∃ t, exec i s = .next t ∧ Ending i s t := by
  cases i with
  | select | data | mirror | wramctlMmc3 | wramctlMmc6 | irqlatch | irqreload | irqen =>
    exact ⟨_, rfl, .sets _⟩
  | irqdis x => exact ⟨_, rfl, .clears _ (.inr ⟨x, rfl⟩)⟩
  | reset => exact ⟨_, rfl, .clears _ (.inl rfl)⟩
  | notify a c => exact execNotify_ending a c s
  | wramrd | prgrd | chrrd => exact gatedRead_ending _ s _ _
  | wramwr a v => exact gatedWrite_ending fun off h => .storesWram a off v rfl h
  | chrwr a v => exact gatedWrite_ending fun off h => .storesChr a off v rfl h
  | snapshot | query => exact ⟨_, rfl, .answers _ nofun⟩
  | restore blob => exact execRestore_ending blob s

theorem exec_next_ending {i : Instr} {s t : State} (h : exec i s = .next t) : Ending i s t := by
  obtain ⟨u, hu, he⟩ := exec_ending i s
  obtain rfl : u = t := by injection hu.symm.trans h
  exact he

/-- RestoreFailure of a blob is told by RESTORE of that blob alone (44_system_ops.md R226). -/
theorem Ending.restore_of_failure {i : Instr} {s t : State} {b : List Byte} (h : Ending i s t)
    (hb : t.returned = .restoreFailure b) : i = .restore b := by
  cases h with
  | answers x failure => exact failure b hb
  | sets | asserts | clears | draws | storesChr | storesWram => cases hb

/-- What is fixed at load time stays: no ending has another cfg or another PRG store (00_scope.md R7, 43_memory_access.md
R207). -/
theorem Ending.cfg_prg {i : Instr} {s t : State} (h : Ending i s t) : t.cfg = s.cfg ∧ t.prg = s.prg := by
  cases h with
  | sets | asserts | clears | answers | draws | storesChr | storesWram => exact ⟨rfl, rfl⟩

/-! The three ways a step goes, by the input and the decoder. -/

theorem step_of_input_nil {s : State} (hin : s.input = []) : step s = .fault .noOperation := by
  unfold step; rw [hin]

theorem step_of_decode_ok {s : State} {e : Event} {rest : List Event} {i : Instr} (hin : s.input = e :: rest)
    (hd : decode s.cfg.variant e = .ok i) : step s = exec i (s.consume rest) := by
  simp only [step, hin, hd]

theorem step_of_decode_error {s : State} {e : Event} {rest : List Event} {x : DecodeError} (hin : s.input = e :: rest)
    (hd : decode s.cfg.variant e = .error x) : step s = .next ((s.consume rest).answer .void) := by
  simp only [step, hin, hd, complete_eq]

/-- A nonempty input always gives a next state: an operation is total, an unmatched register write has no effect. -/
theorem step_next_of_input_cons {s : State} {e : Event} {rest : List Event} (hin : s.input = e :: rest) :
    ∃ t, step s = .next t := by
  cases hd : decode s.cfg.variant e with
  | ok i =>
    obtain ⟨t, ht, -⟩ := exec_ending i (s.consume rest)
    exact ⟨t, (step_of_decode_ok hin hd).trans ht⟩
  | error x => exact ⟨_, step_of_decode_error hin hd⟩

/-- Settles O8, from the list of endings that every operation has. -/
theorem everyOperationIsTotal : Obligations.EveryOperationIsTotal := by
  unfold Obligations.EveryOperationIsTotal
  constructor
  · intro i s
    obtain ⟨t, ht, -⟩ := exec_ending i s
    exact ⟨t, ht⟩
  · intro i s t b h hb
    exact (exec_next_ending h).restore_of_failure hb

/-- Settles O48: taking the operation from the input touches neither, and no ending of an operation does. -/
theorem noStepChangesCfgOrPrg : Obligations.NoStepChangesCfgOrPrg := by
  unfold Obligations.NoStepChangesCfgOrPrg
  intro s t h
  obtain ⟨e, rest, -, ⟨i, -, hexec⟩ | ⟨-, rfl⟩⟩ := step_cases h
  · exact (exec_next_ending hexec).cfg_prg
  · exact ⟨rfl, rfl⟩

/-- Settles O6: the state the operation runs on is the one it has been taken from. -/
theorem stepRunsDecoded : Obligations.StepRunsDecoded := by
  unfold Obligations.StepRunsDecoded
  intro s e rest i hin hd
  exact step_of_decode_ok hin hd

/-- Settles O9, by the input: its oldest operation ends in a next state, and only the empty input has none. -/
theorem stepStopsOnlyAtEndOfInput : Obligations.StepStopsOnlyAtEndOfInput := by
  unfold Obligations.StepStopsOnlyAtEndOfInput
  intro s
  refine ⟨fun hne => ?_, step_of_input_nil⟩
  obtain ⟨e, rest, hin⟩ := List.exists_cons_of_ne_nil hne
  exact step_next_of_input_cons hin

end Sys2Proof.Machine

namespace Sys2Proof.Machine

/-! The register invariants of 10_state.md: even bank[0] and bank[1] (R23), the stamp inside the frame (R34). -/

theorem Regs.valid_iff {c : Config} {r : Regs} : r.valid c = true ↔
    r.bank[0].getLsbD 0 = false ∧ r.bank[1].getLsbD 0 = false ∧ c.inFrame r.ewStamp = true := by
  simp [Regs.valid, and_assoc]

/-- Under a well-formed cfg, whose frame is none or nonempty, the reduced power-on stamp lies inside it. -/
theorem powerOnStamp_inFrame {c : Config} (hc : c.wf = true) : c.inFrame (powerOnStamp c) = true := by
  unfold Config.inFrame powerOnStamp
  cases hf : c.frameCycles with
  | none => rfl
  | some f =>
    have hpos : 0 < f := Nat.pos_of_ne_zero (by simpa [Config.wf, hf] using hc)
    exact decide_eq_true (emod_lt _ hpos)

theorem powerOnRegs_valid {c : Config} (hc : c.wf = true) : (powerOnRegs c).valid c = true :=
  Regs.valid_iff.2 ⟨clearBit0_bit0 c.powerOn.bank0, clearBit0_bit0 c.powerOn.bank1, powerOnStamp_inFrame hc⟩

/-- DATA keeps an even bank[0] or bank[1] even: written by it, the register has bit 0 forced to 0. -/
theorem even_set_dataByte {b : Vector Byte 8} {sel : BitVec 3} {k : Nat} (v : Byte) (hk : k < 2)
    (hb : b[k].getLsbD 0 = false) : (b.set sel.toNat (dataByte sel v) sel.isLt)[k].getLsbD 0 = false := by
  by_cases hsel : sel.toNat = k
  · have hpair : sel = 0#3 ∨ sel = 1#3 := by bv_omega
    simp [hsel, dataByte, hpair]
  · rwa [Vector.getElem_set_ne _ _ hsel]

theorem observeRegs_valid {c : Config} {r : Regs} {a n : Nat} (hn : c.inFrame n = true) (h : r.valid c = true) :
    (observeRegs c r a n).valid c = true := by
  obtain ⟨h0, h1, -⟩ := Regs.valid_iff.1 h
  unfold observeRegs
  split
  · exact Regs.valid_iff.2 ⟨h0, h1, hn⟩
  · exact h

theorem clockRegs_valid {c : Config} {r : Regs} : (clockRegs r).valid c = r.valid c := Regs.valid_congr rfl rfl

theorem wramctlRegs_valid {c : Config} {v : Variant} {x : Byte} {r : Regs} :
    (wramctlRegs v x r).valid c = r.valid c := by
  cases v <;> exact Regs.valid_congr rfl rfl

theorem execNotify_valid {a n : Nat} {s t : State} (hn : s.cfg.inFrame n = true) (h : s.regs.valid s.cfg = true)
    (hexec : execNotify a n s = .next t) : t.regs.valid s.cfg = true := by
  rw [execNotify_eq] at hexec
  cases hexec
  split
  · simpa [clockRegs_valid] using observeRegs_valid hn h
  · exact observeRegs_valid hn h

theorem execRestore_valid {blob : List Byte} {s t : State} (h : s.regs.valid s.cfg = true)
    (hexec : execRestore blob s = .next t) : t.regs.valid s.cfg = true := by
  obtain ⟨r, hr, rfl⟩ | ⟨-, rfl⟩ := execRestore_cases hexec
  · exact (decodeBlob_some hr).1
  · exact h

theorem gatedRead_regs {s t : State} {sp : Space} {target : Option Nat} (h : gatedRead s sp target = .next t) :
    t.regs = s.regs := by
  obtain ⟨off, -, rfl⟩ | ⟨-, rfl⟩ := gatedRead_cases h <;> rfl

theorem gatedWrite_regs {s t : State} {sp : Space} {target : Option Nat} {v : Byte}
    (h : gatedWrite s sp target v = .next t) : t.regs = s.regs := by
  obtain ⟨off, -, rfl⟩ | ⟨-, rfl⟩ := gatedWrite_cases h <;> simp

/-- Every operation keeps the register invariants, NOTIFY under the host's assumption on its position (30_encoding.md R102). -/
theorem exec_regs_valid {i : Instr} {s t : State} (hc : s.cfg.wf = true) (h : s.regs.valid s.cfg = true)
    (hn : ∀ a n, i = .notify a n → s.cfg.inFrame n = true) (hexec : exec i s = .next t) :
    t.regs.valid s.cfg = true := by
  cases i with
  | select | mirror | irqlatch | irqreload | irqdis | irqen =>
    cases hexec
    exact (Regs.valid_congr rfl rfl).trans h
  | wramctlMmc3 | wramctlMmc6 =>
    cases hexec
    exact wramctlRegs_valid.trans h
  | data x =>
    cases hexec
    obtain ⟨h0, h1, hstamp⟩ := Regs.valid_iff.1 h
    exact Regs.valid_iff.2 ⟨even_set_dataByte x (by decide) h0, even_set_dataByte x (by decide) h1, hstamp⟩
  | notify a n => exact execNotify_valid (hn a n rfl) h hexec
  | wramrd | prgrd | chrrd => rwa [gatedRead_regs hexec]
  | wramwr | chrwr => rwa [gatedWrite_regs hexec]
  | reset =>
    cases hexec
    exact powerOnRegs_valid hc
  | snapshot | query =>
    cases hexec
    exact h
  | restore blob => exact execRestore_valid h hexec

/-! The stores: who writes which byte, and that it lies inside its store. -/

/-- The operation `i`, run on `s`, writes the byte at `off` of the space. Nothing writes PRG (43_memory_access.md R207). -/
def Writes (i : Instr) (s : State) : Space → Nat → Prop
  | .prg, _ => False
  | .chr, off => ∃ v x, i = .chrwr v x ∧ writable (chrTarget s.cfg s.regs v) = some off
  | .wram, off => ∃ v x, i = .wramwr v x ∧ writable (lowTarget s.cfg s.regs v) = some off

/-- An operation leaves a store as it was, or writes one byte of it. -/
theorem Ending.store_cases {i : Instr} {s t : State} (h : Ending i s t) (sp : Space) :
    t.store sp = s.store sp ∨ ∃ off x, Writes i s sp off ∧ t.store sp = (s.store sp).write off x := by
  cases h with
  | sets | asserts | clears | answers | draws => cases sp <;> exact .inl rfl
  | storesChr a off x op target =>
    cases sp with
    | chr => exact .inr ⟨off, x, ⟨a, x, op, target⟩, rfl⟩
    | prg | wram => exact .inl rfl
  | storesWram a off x op target =>
    cases sp with
    | wram => exact .inr ⟨off, x, ⟨a, x, op, target⟩, rfl⟩
    | prg | chr => exact .inl rfl

/-- A byte that an operation changed is one that it writes. -/
theorem writes_of_memRead_ne {i : Instr} {s t : State} {sp : Space} {a : Nat} (hexec : exec i s = .next t)
    (hne : t.memRead sp a ≠ s.memRead sp a) : Writes i s sp a := by
  obtain hsame | ⟨off, x, hw, hstore⟩ := (exec_next_ending hexec).store_cases sp
  · exact absurd (State.memRead_congr hsame a) hne
  · by_cases ha : a = off
    · exact ha ▸ hw
    · refine absurd ?_ hne
      rw [State.memRead, hstore, Memory.read_write_other x ha, State.memRead]

/-- A writable offset of CHR lies inside the store (20_memory.md R51, R58). -/
theorem chrTarget_writable_lt {c : Config} {r : Regs} {v off : Nat} (h : writable (chrTarget c r v) = some off) :
    off < c.chrPages * chrPage := by
  obtain ⟨p, ht, -⟩ := writable_some h
  unfold chrTarget at ht
  split at ht
  · exact entryTarget_lt (Nat.mod_lt _ (by decide)) ht
  · cases ht

/-- With no working memory no permission can write (41_register_writes.md R162, R163). -/
theorem lowLookup_not_writable {c : Config} {r : Regs} {a : Nat} (hc : c.wramSize = 0) :
    canWrite (lowLookup c r a).1 = false := by
  unfold lowLookup
  split
  · simp [lowPerm, hc, canWrite]
  · split <;> simp [lowPermHalf, hc, canWrite]

theorem lowHalfMap_lt {c : Config} {a off : Nat} {h : Half} (hc : 0 < c.wramSize)
    (hm : lowHalfMap c a = some (h, off)) : off < c.wramSize := by
  unfold lowHalfMap at hm
  split at hm
  · split at hm
    · cases hm; exact Nat.mod_lt _ hc
    · cases hm
  · cases hm; exact Nat.mod_lt _ hc
  · split at hm
    · cases hm; exact Nat.mod_lt _ hc
    · cases hm
    · cases hm

/-- The looked-up offset is reduced modulo the size of the store (log 26). -/
theorem lowLookup_lt {c : Config} {r : Regs} {a : Nat} (hc : 0 < c.wramSize) : (lowLookup c r a).2 < c.wramSize := by
  unfold lowLookup
  split
  · exact Nat.mod_lt _ hc
  · split
    · rename_i hm
      exact lowHalfMap_lt hc hm
    · exact hc

/-- A writable offset of WRAM lies inside the store (20_memory.md R51). -/
theorem lowTarget_writable_lt {c : Config} {r : Regs} {a off : Nat} (h : writable (lowTarget c r a) = some off) :
    off < c.wramSize := by
  obtain ⟨p, ht, hp⟩ := writable_some h
  unfold lowTarget at ht
  split at ht
  · injection ht with ht
    rcases Nat.eq_zero_or_pos c.wramSize with hc | hc
    · have := lowLookup_not_writable (r := r) (a := a) hc
      simp [ht, hp] at this
    · have := lowLookup_lt (r := r) (a := a) hc
      simpa [ht] using this
  · cases ht

theorem Writes.lt_spaceSize {i : Instr} {s : State} {sp : Space} {off : Nat} (h : Writes i s sp off) :
    off < spaceSize s.cfg sp := by
  cases sp with
  | prg => exact h.elim
  | chr =>
    obtain ⟨v, x, -, htarget⟩ := h
    exact chrTarget_writable_lt htarget
  | wram =>
    obtain ⟨v, x, -, htarget⟩ := h
    exact lowTarget_writable_lt htarget

/-- Every operation keeps a store canonical and inside its size. -/
theorem exec_storeWf {i : Instr} {s t : State} {sp : Space} (h : s.storeWf sp) (hexec : exec i s = .next t) :
    t.storeWf sp := by
  have hend := exec_next_ending hexec
  rw [State.storeWf, hend.cfg_prg.1]
  obtain hsame | ⟨off, x, hw, hstore⟩ := hend.store_cases sp
  · rwa [hsame]
  · rw [hstore]
    exact ⟨Memory.wf_write off x h.1, Memory.within_write hw.lt_spaceSize h.2⟩

/-- Settles O49: a changed byte is a written one, and the two writing operations are listed in `Writes`. -/
theorem storesChangedOnlyByTheirWrites : Obligations.StoresChangedOnlyByTheirWrites := by
  unfold Obligations.StoresChangedOnlyByTheirWrites
  intro i s t a hexec
  exact ⟨writes_of_memRead_ne hexec, writes_of_memRead_ne hexec⟩

/-! The invariant: right after reset, and under every step. -/

/-- Settles O12: the power-on registers are valid, the stores are as loaded, and no operation has been issued. -/
theorem resetStateInv : Obligations.ResetStateInv := by
  unfold Obligations.ResetStateInv
  have hreset (c : Config) (prg chr wram : Memory) (hc : c.wf = true)
      (hprg : prg.wf ∧ prg.within (c.prgPages * 0x2000)) (hchr : chr.wf ∧ chr.within (c.chrPages * 0x400))
      (hwram : wram.wf ∧ wram.within c.wramSize) : (State.afterReset c prg chr wram).Inv :=
    ⟨hc, powerOnRegs_valid hc, hprg, hchr, hwram, nofun⟩
  have hempty (size : Nat) : Memory.wf [] ∧ Memory.within size [] := ⟨⟨.nil, nofun⟩, nofun⟩
  exact ⟨hreset _ _ _ _ rfl (hempty _) (hempty _) (hempty _), hreset⟩

/-- No operation issues another. -/
theorem Ending.input_eq {i : Instr} {s t : State} (h : Ending i s t) : t.input = s.input := by
  cases h with
  | sets | asserts | clears | answers | draws | storesChr | storesWram => rfl

/-- Only the NOTE format decodes to NOTIFY, with its operands as they are (30_encoding.md R102). -/
theorem note_of_decode_notify {v : Variant} {e : Event} {a n : Nat} (h : decode v e = .ok (.notify a n)) :
    e = .note a n := by
  have hformat := decode_format h
  cases e with
  | note => cases h; rfl
  | regw | memr | memw | sys => cases hformat

theorem State.Inv.consume {s : State} {e : Event} {rest : List Event} (h : s.Inv) (hin : s.input = e :: rest) :
    (s.consume rest).Inv :=
  ⟨h.cfg, h.regs, h.prg, h.chr, h.wram, fun f hf => h.input f (hin ▸ List.mem_cons_of_mem e hf)⟩

theorem State.Inv.answer {s : State} (h : s.Inv) (x : Returned) : (s.answer x).Inv :=
  ⟨h.cfg, h.regs, h.prg, h.chr, h.wram, h.input⟩

/-- Every operation keeps the invariant, NOTIFY under the host's assumption on its position. -/
theorem State.Inv.exec {i : Instr} {s t : State} (h : s.Inv)
    (hn : ∀ a n, i = .notify a n → s.cfg.inFrame n = true) (hexec : exec i s = .next t) : t.Inv := by
  have hcfg : t.cfg = s.cfg := (exec_next_ending hexec).cfg_prg.1
  have hinput : t.input = s.input := (exec_next_ending hexec).input_eq
  refine ⟨hcfg ▸ h.cfg, hcfg ▸ exec_regs_valid h.cfg h.regs hn hexec, exec_storeWf h.prg hexec,
    exec_storeWf h.chr hexec, exec_storeWf h.wram hexec, ?_⟩
  rw [State.inputInFrame, hcfg, hinput]
  exact h.input

/-- Settles O52: the oldest operation runs on a state that meets the invariant, and a NOTIFY among the issued operations
lies inside the frame. -/
theorem stepKeepsInv : Obligations.StepKeepsInv := by
  unfold Obligations.StepKeepsInv
  intro s t h hstep
  obtain ⟨e, rest, hin, ⟨i, hd, hexec⟩ | ⟨-, rfl⟩⟩ := step_cases hstep
  · refine (h.consume hin).exec (fun a n hi => ?_) hexec
    obtain rfl := note_of_decode_notify (hi ▸ hd)
    exact h.input _ (hin ▸ List.mem_cons_self)
  · exact (h.consume hin).answer _

/-! The control bits of the sub-variant that is not selected (10_state.md R28, R29, D27). -/

/-- The registers `r` with the control bits that `v` does not use taken from `q`: the MMC6 bits on an MMC3, the MMC3 bits on
an MMC6. -/
def Regs.withIdle (v : Variant) (r q : Regs) : Regs :=
  match v with
  | .mmc3 => { r with h0r := q.h0r, h0w := q.h0w, h1r := q.h1r, h1w := q.h1w }
  | .mmc6 => { r with wramEn := q.wramEn, wramWp := q.wramWp }

/-- The state with the unused control bits taken from `q`. -/
def State.withIdle (v : Variant) (q : Regs) (s : State) : State := s.setRegs (s.regs.withIdle v q)

section WithIdle
variable (v : Variant) (q r : Regs)

@[simp] theorem State.withIdle_cfg (s : State) : (s.withIdle v q).cfg = s.cfg := rfl
@[simp] theorem State.withIdle_regs (s : State) : (s.withIdle v q).regs = s.regs.withIdle v q := rfl
@[simp] theorem State.setRegs_withIdle (s : State) :
    (s.withIdle v q).setRegs (r.withIdle v q) = (s.setRegs r).withIdle v q := rfl
@[simp] theorem State.assertIrq_withIdle (s : State) :
    (s.withIdle v q).assertIrq = s.assertIrq.withIdle v q := rfl
@[simp] theorem State.answer_withIdle (s : State) (x : Returned) :
    (s.withIdle v q).answer x = (s.answer x).withIdle v q := rfl

/-! WRAMCTL and the low window use the bits of the sub-variant `v` alone; the rest uses no control bit. -/

@[simp] theorem wramctlRegs_withIdle (x : Byte) :
    wramctlRegs v x (r.withIdle v q) = (wramctlRegs v x r).withIdle v q := by
  cases v <;> rfl

theorem lowTarget_withIdle {c : Config} (hv : c.variant = v) (a : Nat) :
    lowTarget c (r.withIdle v q) a = lowTarget c r a := by
  unfold lowTarget lowLookup
  rw [hv]
  cases v <;> rfl

@[simp] theorem prgTarget_withIdle (c : Config) (a : Nat) : prgTarget c (r.withIdle v q) a = prgTarget c r a := by
  cases v <;> rfl

@[simp] theorem chrTarget_withIdle (c : Config) (a : Nat) : chrTarget c (r.withIdle v q) a = chrTarget c r a := by
  cases v <;> rfl

@[simp] theorem accepts_withIdle (c : Config) (a n : Nat) : accepts c (r.withIdle v q) a n = accepts c r a n := by
  cases v <;> rfl

@[simp] theorem classify_withIdle (c : Config) (a n : Nat) :
    classify c (r.withIdle v q) a n = classify c r a n := by
  simp [classify]

@[simp] theorem observeRegs_withIdle (c : Config) (a n : Nat) :
    observeRegs c (r.withIdle v q) a n = (observeRegs c r a n).withIdle v q := by
  unfold observeRegs
  rw [accepts_withIdle]
  split
  · cases v <;> rfl
  · rfl

@[simp] theorem clockRegs_withIdle : clockRegs (r.withIdle v q) = (clockRegs r).withIdle v q := by
  cases v <;> rfl

@[simp] theorem clockFires_withIdle (c : Config) : clockFires c (r.withIdle v q) = clockFires c r := by
  cases v <;> rfl

@[simp] theorem clockIrq_withIdle (s : State) : clockIrq (s.withIdle v q) = (clockIrq s).withIdle v q := by
  simp only [clockIrq, State.withIdle_cfg, State.withIdle_regs, clockFires_withIdle, clockRegs_withIdle,
    State.setRegs_withIdle, State.assertIrq_withIdle]
  split <;> rfl

theorem execNotify_withIdle (a n : Nat) (s : State) : ∃ t,
    execNotify a n s = .next t ∧ execNotify a n (s.withIdle v q) = .next (t.withIdle v q) := by
  refine ⟨_, execNotify_eq a n s, ?_⟩
  rw [execNotify_eq]
  by_cases hrise : classify s.cfg s.regs a n = .rise <;> simp [hrise]

theorem gatedRead_withIdle (s : State) (sp : Space) (target : Option Nat) : ∃ t,
    gatedRead s sp target = .next t ∧ gatedRead (s.withIdle v q) sp target = .next (t.withIdle v q) := by
  cases target with
  | none => exact ⟨_, rfl, rfl⟩
  | some off => cases sp <;> exact ⟨_, rfl, rfl⟩

theorem gatedWrite_withIdle (s : State) (sp : Space) (target : Option Nat) (x : Byte) : ∃ t,
    gatedWrite s sp target x = .next t ∧ gatedWrite (s.withIdle v q) sp target x = .next (t.withIdle v q) := by
  cases target with
  | none => exact ⟨_, rfl, rfl⟩
  | some off => cases sp <;> exact ⟨_, rfl, rfl⟩

end WithIdle

/-- The unused control bits are neither written nor read: an operation that does not set or report every field commutes with
changing them. -/
theorem exec_withIdle {i : Instr} {s : State} {v : Variant} (hv : s.cfg.variant = v) (q : Regs) (hreset : i ≠ .reset)
    (hsnapshot : i ≠ .snapshot) (hquery : i ≠ .query) (hrestore : ∀ b, i ≠ .restore b) :
    ∃ t, exec i s = .next t ∧ exec i (s.withIdle v q) = .next (t.withIdle v q) := by
  cases i with
  | select | data | mirror | irqlatch | irqreload | irqdis | irqen => cases v <;> exact ⟨_, rfl, rfl⟩
  | wramctlMmc3 => exact ⟨_, rfl, by simp [exec, execWramctlMmc3, hv]⟩
  | wramctlMmc6 => exact ⟨_, rfl, by simp [exec, execWramctlMmc6, hv]⟩
  | notify a n => exact execNotify_withIdle v q a n s
  | wramrd a => simpa [exec, execWramrd, lowTarget_withIdle, hv] using gatedRead_withIdle v q s .wram _
  | wramwr a x => simpa [exec, execWramwr, lowTarget_withIdle, hv] using gatedWrite_withIdle v q s .wram _ x
  | prgrd a => simpa [exec, execPrgrd] using gatedRead_withIdle v q s .prg _
  | chrrd a => simpa [exec, execChrrd] using gatedRead_withIdle v q s .chr _
  | chrwr a x => simpa [exec, execChrwr] using gatedWrite_withIdle v q s .chr _ x
  | reset => exact absurd rfl hreset
  | snapshot => exact absurd rfl hsnapshot
  | query => exact absurd rfl hquery
  | restore b => exact absurd rfl (hrestore b)

/-- Settles O51: the two clauses are the two variants of one commutation. -/
theorem inactiveVariantBitsAreInert : Obligations.InactiveVariantBitsAreInert := by
  unfold Obligations.InactiveVariantBitsAreInert
  intro i s hreset hsnapshot hquery hrestore
  constructor
  · intro hv a b c d
    exact exec_withIdle hv { s.regs with h0r := a, h0w := b, h1r := c, h1w := d } hreset hsnapshot hquery hrestore
  · intro hv a b
    exact exec_withIdle hv { s.regs with wramEn := a, wramWp := b } hreset hsnapshot hquery hrestore

end Sys2Proof.Machine

namespace Sys2Proof.Machine

/-! The entries of the PRG and CHR windows, and the bytes their targets name (20_memory.md R55 to R59). -/

/-- An entry's page and permission are absent together, exactly when the store has no pages. -/
theorem entryOf_eq (s : Int) (n : Nat) (p : Perm) :
    entryOf s n p = if n = 0 then { page := none, perm := .none } else { page := (entryOf s n p).page, perm := p } := by
  rcases Nat.eq_zero_or_pos n with rfl | hn
  · rfl
  · rw [if_neg hn.ne', entryOf_pages s p hn]

/-- Settles O24: both kinds of window are entries of their store, PRG's with R, CHR's with cfg.chr_perm. -/
theorem windowPermissions : Obligations.WindowPermissions := by
  unfold Obligations.WindowPermissions
  intro c r
  exact ⟨fun k => entryOf_eq (prgSel r k) c.prgPages .r, fun k => entryOf_eq (chrSel r k) c.chrPages c.chrPerm⟩

theorem prgTarget_lt {c : Config} {r : Regs} {a off : Nat} {p : Perm} (h : prgTarget c r a = some (p, off)) :
    off < c.prgPages * prgPage := by
  unfold prgTarget at h
  split at h
  · exact entryTarget_lt (Nat.mod_lt _ (by decide)) h
  · cases h

theorem chrTarget_lt {c : Config} {r : Regs} {v off : Nat} {p : Perm} (h : chrTarget c r v = some (p, off)) :
    off < c.chrPages * chrPage := by
  unfold chrTarget at h
  split at h
  · exact entryTarget_lt (Nat.mod_lt _ (by decide)) h
  · cases h

/-- With no working memory the low window has permission NONE (41_register_writes.md R162, R163). -/
theorem lowLookup_perm_of_no_wram {c : Config} (r : Regs) (a : Nat) (hc : c.wramSize = 0) :
    (lowLookup c r a).1 = .none := by
  unfold lowLookup
  split
  · simp [lowPerm, hc]
  · split <;> simp [lowPermHalf, hc]

/-- A low-window target with any permission is a byte of WRAM: its offset is reduced, and a permission means that there is
a store to reduce it into. -/
theorem lowTarget_lt {c : Config} {r : Regs} {a off : Nat} {p : Perm} (h : lowTarget c r a = some (p, off))
    (hp : p ≠ .none) : off < c.wramSize := by
  unfold lowTarget at h
  split at h
  case isTrue =>
    obtain ⟨rfl, rfl⟩ := Prod.mk.inj (Option.some.inj h)
    exact lowLookup_lt (Nat.pos_of_ne_zero fun hc => hp (lowLookup_perm_of_no_wram r a hc))
  case isFalse => cases h

/-- Settles O26: a page is reduced into its store, and so is a WRAM offset. -/
theorem targetsInsideStores : Obligations.TargetsInsideStores := by
  unfold Obligations.TargetsInsideStores
  intro c r a off p
  exact ⟨prgTarget_lt, chrTarget_lt, lowTarget_lt⟩

/-! The three forms of cfg.low_half_map (20_memory.md R62), and what an MMC6 reaches through them. -/

/-- An address of the low window that the half map sends to a half and an offset. -/
theorem lowTarget_of_half {c : Config} {a off : Nat} {h : Half} (r : Regs) (hv : c.variant = .mmc6) (ha : inLow a = true)
    (hm : lowHalfMap c a = some (h, off)) : lowTarget c r a = some (lowPermHalf c r h, off) := by
  rw [lowTarget_mmc6 hv ha, hm]

section HalfMmc6
variable {c : Config} (hm : c.lowHalfMap = .halfMmc6)
include hm

theorem lowHalfMap_halfMmc6_outside {a : Nat} (ha : a < 0x7000) : lowHalfMap c a = none := by
  unfold lowHalfMap
  rw [hm]
  exact if_neg (by omega)

/-- Byte k of image j of the 1 KB store: the halves are its first and second 512 bytes. -/
theorem lowHalfMap_halfMmc6_image {j k : Nat} (hj : j < 4) (hk : k < 0x400) :
    lowHalfMap c (0x7000 + j * 0x400 + k) = some (if k < 0x200 then .h0 else .h1, k % c.wramSize) := by
  have hwindow : 0x7000 ≤ 0x7000 + j * 0x400 + k ∧ 0x7000 + j * 0x400 + k ≤ 0x7FFF := by omega
  have hoffset : (0x7000 + j * 0x400 + k - 0x7000) % 0x400 = k := by omega
  have hhalf : (0x7000 + j * 0x400 + k - 0x7000) / 0x200 % 2 = 0 ↔ k < 0x200 := by omega
  unfold lowHalfMap halfMmc6
  simp only [hm, if_pos hwindow, hoffset, hhalf]

end HalfMmc6

section HalfLiteral
variable {c : Config} (hm : c.lowHalfMap = .halfLiteral)
include hm

theorem lowHalfMap_halfLiteral_h0 {k : Nat} (hk : k < 0x1000) :
    lowHalfMap c (0x6000 + k) = some (.h0, k % c.wramSize) := by
  have hlow : 0x6000 + k < lowBase + lowSize / 2 := Nat.add_lt_add_left hk 0x6000
  have hoffset : 0x6000 + k - lowBase = k := Nat.add_sub_cancel_left 0x6000 k
  unfold lowHalfMap
  simp only [hm, if_pos hlow, hoffset]

theorem lowHalfMap_halfLiteral_h1 (k : Nat) :
    lowHalfMap c (0x7000 + k) = some (.h1, (0x1000 + k) % c.wramSize) := by
  have hhigh : ¬ 0x7000 + k < lowBase + lowSize / 2 := Nat.not_lt.2 (Nat.le_add_right 0x7000 k)
  have hoffset : 0x7000 + k - lowBase = 0x1000 + k := by rw [lowBase]; omega
  unfold lowHalfMap
  simp only [hm, if_neg hhigh, hoffset]

end HalfLiteral

/-- An absent entry and an empty one are both outside; the offset of any other is reduced (log 13). -/
theorem lowHalfMap_table {c : Config} {entries : List (Option (Half × Nat))} (hm : c.lowHalfMap = .table entries)
    (k : Nat) : lowHalfMap c (0x6000 + k) = entries[k]?.join.map fun (h, off) => (h, off % c.wramSize) := by
  have hindex : 0x6000 + k - lowBase = k := Nat.add_sub_cancel_left 0x6000 k
  unfold lowHalfMap
  simp only [hm, hindex]
  match entries[k]? with
  | none | some none | some (some _) => rfl

/-- Settles O27: what the map of each form answers is what the low window reaches, at the permission of the half. -/
theorem lowHalfMapForms : Obligations.LowHalfMapForms := by
  unfold Obligations.LowHalfMapForms
  intro c r hv
  have low {k : Nat} (hk : k < 0x2000) : inLow (0x6000 + k) = true := inLow_iff.2 (by omega)
  refine ⟨fun hm => ⟨fun k hk => ?_, fun j k hj hk => ?_⟩, fun hm => ⟨fun k hk => ?_, fun k hk => ?_, ?_, ?_⟩,
    fun entries hm k hk => ⟨fun h off he => ?_, fun he => ?_⟩⟩
  · have hout := lowHalfMap_halfMmc6_outside hm (a := 0x6000 + k) (by omega)
    exact ⟨hout, lowTarget_outside hv (low (by omega)) hout⟩
  · exact lowTarget_of_half r hv (inLow_iff.2 (by omega)) (lowHalfMap_halfMmc6_image hm hj hk)
  · exact lowTarget_of_half r hv (low (by omega)) (lowHalfMap_halfLiteral_h0 hm hk)
  · exact lowTarget_of_half r hv (inLow_iff.2 (by omega)) (lowHalfMap_halfLiteral_h1 hm k)
  · exact lowHalfMap_halfLiteral_h0 hm (k := 0x0FFF) (by omega)
  · exact lowHalfMap_halfLiteral_h1 hm 0
  · have himage : lowHalfMap c (0x6000 + k) = some (h, off % c.wramSize) := by rw [lowHalfMap_table hm, he]; rfl
    exact ⟨himage, lowTarget_of_half r hv (low hk) himage⟩
  · have hout : lowHalfMap c (0x6000 + k) = none := by
      rw [lowHalfMap_table hm]
      rcases he with he | he <;> rw [he] <;> rfl
    exact ⟨hout, lowTarget_outside hv (low hk) hout⟩

/-! Reading PRG through a window (43_memory_access.md R204). -/

/-- In-window offset o of PRG window k (20_memory.md R52, R59). -/
theorem prgTarget_window {a o : Nat} {k : Fin 4} (c : Config) (r : Regs) (ha : a = 0x8000 + k.val * 0x2000 + o)
    (ho : o < 0x2000) : prgTarget c r a = entryTarget (prgEntry c r k) 0x2000 o := by
  have hin : inPrg a = true := inPrg_iff.2 (by omega)
  have hwindow : prgWindow a = k := Fin.ext (by simp only [prgWindow, prgBase, prgPage, Fin.ofNat]; omega)
  have hoffset : prgOffset a = o := by simp only [prgOffset, prgBase, prgPage]; omega
  rw [prgTarget, if_pos hin, hwindow, hoffset, prgPage]

/-- With pages, PRGRD answers the byte of the page that the window's selector resolves to. -/
theorem exec_prgrd_window {s : State} {a o : Nat} {k : Fin 4} (hn : 0 < s.cfg.prgPages)
    (ha : a = 0x8000 + k.val * 0x2000 + o) (ho : o < 0x2000) :
    exec (.prgrd a) s =
      .next (s.answer (.byte (s.memRead .prg (emod (prgSel s.regs k) s.cfg.prgPages * 0x2000 + o)))) := by
  rw [exec, execPrgrd, prgTarget_window _ _ ha ho, prgEntry, entryOf_pages _ _ hn]
  rfl

/-- The page of window 0, which mode 1 pins to the second to last (41_register_writes.md R161). -/
theorem emod_prgSel_window0 {n : Nat} (r : Regs) (hn : 0 < n) :
    emod (prgSel r 0) n = if r.prgMode then n - 2 else r.bank[6].toNat % n := by
  cases h : r.prgMode
  · simpa [prgSel, prgSelMode0, h] using emod_nat r.bank[6].toNat n
  · simpa [prgSel, prgSelMode1, h] using emod_neg_two hn

/-- The page of window 2, which mode 0 pins to the second to last (41_register_writes.md R161). -/
theorem emod_prgSel_window2 {n : Nat} (r : Regs) (hn : 0 < n) :
    emod (prgSel r 2) n = if r.prgMode then r.bank[6].toNat % n else n - 2 := by
  cases h : r.prgMode
  · simpa [prgSel, prgSelMode0, h] using emod_neg_two hn
  · simpa [prgSel, prgSelMode1, h] using emod_nat r.bank[6].toNat n

/-- Settles O28: the reads resolve the selectors of the registers SELECT has written, whose mode is bit 6 of its byte. -/
theorem nextReadSeesNewMode : Obligations.NextReadSeesNewMode := by
  unfold Obligations.NextReadSeesNewMode
  intro s x o hpages ho
  have hn : 0 < s.cfg.prgPages := by omega
  refine ⟨_, _, _, rfl, exec_prgrd_window (k := 0) hn (by simp) ho, exec_prgrd_window (k := 2) hn rfl ho, ?_⟩
  simp [emod_prgSel_window0 _ hn, emod_prgSel_window2 _ hn]

end Sys2Proof.Machine

namespace Sys2Proof

/-! The decoder and the encoder on register writes, by the masked address (30_encoding.md R91 to R94). -/

open Machine

/-- A15 of a CPU address says whether it is at 0x8000 or above. -/
theorem getLsbD_15_iff {a : BitVec 16} : a.getLsbD 15 = true ↔ 0x8000 ≤ a.toNat := by
  have hmsb : a.getLsbD 15 = a.msb := (BitVec.msb_eq_getLsbD_last a).symm
  rw [hmsb, BitVec.msb_eq_decide, decide_eq_true_iff]

theorem getLsbD_15_eq_false_iff {a : BitVec 16} : a.getLsbD 15 = false ↔ a.toNat < 0x8000 := by
  rw [← Bool.not_eq_true, getLsbD_15_iff, Nat.not_le]

/-- Every pattern has A15 set, so a masked address without it is no register (30_encoding.md R105). -/
theorem decodePattern_of_not_A15 {p : BitVec 16} (v : Variant) (x : Byte) (hp : p.getLsbD 15 = false) :
    decodePattern v p x = .error (.noPattern p) := by
  have hne (q : BitVec 16) (hq : q.getLsbD 15 = true) : p ≠ q := by
    rintro rfl
    exact Bool.false_ne_true (hp.symm.trans hq)
  simp only [decodePattern, hne patSelect rfl, hne patData rfl, hne patMirror rfl, hne patWramctl rfl,
    hne patIrqlatch rfl, hne patIrqreload rfl, hne patIrqdis rfl, hne patIrqen rfl, if_false]

theorem decode_write_of_not_A15 {a : BitVec 16} (v : Variant) (x : Byte) (ha : a.getLsbD 15 = false) :
    decode v (.write a x) = .error (.noPattern (a &&& regMask)) := by
  rw [decode_write]
  exact decodePattern_of_not_A15 v x (by rw [BitVec.getLsbD_and, ha, Bool.false_and])

/-- The encoder writes the pattern that the decoder has matched. -/
theorem encode_of_decodePattern {v : Variant} {p : BitVec 16} {x : Byte} {i : Instr}
    (h : decodePattern v p x = .ok i) : encode i = .write p x := by
  cases v with
  | mmc3 | mmc6 =>
    unfold decodePattern at h
    split_ifs at h with hp hp hp hp hp hp hp hp
    all_goals cases h; rw [hp]; rfl

/-- Masking the address of a word is masking the word, the byte kept whole. -/
theorem packWord_and_regMask (a : BitVec 16) (x : Byte) :
    packWord (a &&& regMask) x = packWord a x &&& 0xE001FF#24 := by
  have hmask : 0xE001FF#24 = packWord regMask (BitVec.allOnes 8) := by decide
  rw [hmask, packWord, packWord, packWord, BitVec.and_append, BitVec.and_allOnes]

/-- A word that decodes to an instruction is, masked, the word of its encoding. -/
theorem encode_of_decodeWord {v : Variant} {w : BitVec 24} {i : Instr} (h : decodeWord v w = .ok i) :
    encode i = .regw (w &&& 0xE001FF#24) := by
  rw [encode_of_decodePattern h, Event.write, packWord_and_regMask, packWord_fields]

/-- The other four formats carry their operands whole. -/
theorem encode_of_decode {v : Variant} {e : Event} {i : Instr} (hregw : ∀ w, e ≠ .regw w) (h : decode v e = .ok i) :
    encode i = e := by
  cases e with
  | regw w => exact absurd rfl (hregw w)
  | note a c => cases h; rfl
  | memr port a => cases port <;> cases h <;> rfl
  | memw port a x => cases port <;> cases h <;> rfl
  | sys call => cases call <;> cases h <;> rfl

/-- Settles O3, by the instruction: a register write is written at its own pattern, where the two WRAMCTL rows are told
apart by the variant, and the other formats name the operation. -/
theorem decodeEncode : Obligations.DecodeEncode := by
  unfold Obligations.DecodeEncode
  intro c i hwf
  cases i with
  | select x | data x | mirror x | irqlatch x | irqreload x | irqdis x | irqen x =>
    exact (decode_write c.variant _ x).trans rfl
  | wramctlMmc3 x =>
    have hv : c.variant = .mmc3 := eq_of_beq hwf
    rw [hv]
    exact (decode_write .mmc3 patWramctl x).trans rfl
  | wramctlMmc6 x =>
    have hv : c.variant = .mmc6 := eq_of_beq hwf
    rw [hv]
    exact (decode_write .mmc6 patWramctl x).trans rfl
  | notify | wramrd | wramwr | prgrd | chrrd | chrwr | reset | snapshot | restore | query => rfl

/-- Settles O2: the masked address is made of the four lines, and each of the eight with A15 is one row's pattern. -/
theorem registerRowByAddressLines : Obligations.RegisterRowByAddressLines := by
  unfold Obligations.RegisterRowByAddressLines
  intro v a x
  refine ⟨decode_write_of_not_A15 v x, fun h15 => ?_⟩
  rw [decode_write, masked_lines, h15]
  cases a.getLsbD 14 <;> cases a.getLsbD 13 <;> cases a.getLsbD 0 <;> cases v <;> rfl

/-- Settles O4, by the format: a register write is encoded as its masked word, any other event as itself. -/
theorem decodeDropsOnlyIgnoredLines : Obligations.DecodeDropsOnlyIgnoredLines := by
  unfold Obligations.DecodeDropsOnlyIgnoredLines
  intro v e i h
  refine ⟨?_, fun hregw => encode_of_decode hregw h⟩
  rintro w rfl
  exact ⟨_, encode_of_decodeWord h, rfl⟩

/-- Settles O1: the words are fixed, and the decoder is evaluated on each. -/
theorem vectorWordsDecode : Obligations.VectorWordsDecode := by
  unfold Obligations.VectorWordsDecode
  decide

/-- Settles O7: below 0x8000 the address has no A15, so the event decodes to no instruction. -/
theorem unmatchedWriteHasNoEffect : Obligations.UnmatchedWriteHasNoEffect := by
  unfold Obligations.UnmatchedWriteHasNoEffect
  intro s a x rest ha hin
  exact step_of_decode_error hin (decode_write_of_not_A15 _ x (getLsbD_15_eq_false_iff.2 ha))

end Sys2Proof

namespace Sys2Proof.Machine

/-! The host's routing by address ranges, and the accesses outside their windows (20_memory.md R53, D23). -/

/-- The registers are the addresses with A15: every masked address with it is one of the eight patterns. -/
theorem isRegister_eq_A15 (a : BitVec 16) : isRegister a = a.getLsbD 15 := by
  rw [isRegister, masked_lines]
  cases a.getLsbD 15 <;> cases a.getLsbD 14 <;> cases a.getLsbD 13 <;> cases a.getLsbD 0 <;> rfl

theorem isRegister_iff {a : BitVec 16} : isRegister a = true ↔ 0x8000 ≤ a.toNat := by
  rw [isRegister_eq_A15, getLsbD_15_iff]

theorem inPrg_toNat_iff {a : BitVec 16} : inPrg a.toNat = true ↔ 0x8000 ≤ a.toNat := by
  have := a.isLt
  rw [inPrg_iff]
  omega

theorem inChr_iff_lt {v : Nat} : inChr v = true ↔ v < 0x2000 := inChr_iff.trans (by omega)

/-- Settles O60: the three questions the routing asks of an address are its three ranges. -/
theorem busRouting : Obligations.BusRouting := by
  unfold Obligations.BusRouting
  refine ⟨fun a x => ⟨fun h => ?_, fun hlow hhigh => ?_, fun h => ?_⟩, fun v c x => ⟨rfl, fun h => ?_, fun h => ?_⟩⟩
  · simp [route, isRegister_iff, inPrg_toNat_iff, h]
  · simp [route, isRegister_iff, inPrg_toNat_iff, inLow_iff, hlow, hhigh]
  · have h8 : ¬ 0x8000 ≤ a.toNat := by omega
    simp [route, isRegister_iff, inPrg_toNat_iff, inLow_iff, h, h8]
  · simp [route, inChr_iff_lt, h]
  · simp [route, inChr_iff_lt, h]

/-- A read that reaches no byte of its store draws. -/
theorem gatedRead_none_returnsDraw (s : State) (sp : Space) :
    ∃ t, gatedRead s sp none = .next t ∧ Claims.ReturnsDraw s t :=
  ⟨s.drawByte, rfl, rfl, rfl, s.drawByte_memRead, rfl, rfl, rfl, rfl⟩

/-- A write that reaches no byte of its store is dropped. -/
theorem gatedWrite_none_dropped (s : State) (sp : Space) (x : Byte) :
    ∃ t, gatedWrite s sp none x = .next t ∧ Claims.Dropped s t :=
  ⟨s.answer .void, rfl, rfl⟩

theorem lowTarget_eq_none {c : Config} {a : Nat} (r : Regs) (ha : a < 0x6000 ∨ 0x8000 ≤ a) : lowTarget c r a = none :=
  if_neg (by rw [inLow_iff]; omega)

theorem prgTarget_eq_none {c : Config} {a : Nat} (r : Regs) (ha : a < 0x8000 ∨ 0x10000 ≤ a) : prgTarget c r a = none :=
  if_neg (by rw [inPrg_iff]; omega)

theorem chrTarget_eq_none {c : Config} {v : Nat} (r : Regs) (hv : 0x2000 ≤ v) : chrTarget c r v = none :=
  if_neg (by rw [inChr_iff]; omega)

/-- Settles O36: outside its window an access has no target, so it draws or drops. -/
theorem outOfWindowAccesses : Obligations.OutOfWindowAccesses := by
  unfold Obligations.OutOfWindowAccesses
  intro s a x
  refine ⟨fun ha => ?_, fun ha => ?_, fun ha => ?_⟩
  · simp only [exec, execWramrd, execWramwr, lowTarget_eq_none _ ha, readable, writable]
    exact ⟨gatedRead_none_returnsDraw s .wram, gatedWrite_none_dropped s .wram x⟩
  · simp only [exec, execPrgrd, prgTarget_eq_none _ ha, readable]
    exact gatedRead_none_returnsDraw s .prg
  · simp only [exec, execChrrd, execChrwr, chrTarget_eq_none _ ha, readable, writable]
    exact ⟨gatedRead_none_returnsDraw s .chr, gatedWrite_none_dropped s .chr x⟩

end Sys2Proof.Machine

namespace Sys2Proof.Machine

/-! The lines of the trace, layer by layer: digits, numbers, operands, words of a line (30_encoding.md R107). -/

/-- A digit character reads as its digit. -/
theorem charDigit_digitChar {d : Nat} (hd : d < 16) : charDigit (digitChar d) = some d := by
  revert d
  decide

theorem digitChar_ne_space {d : Nat} (hd : d < 16) : digitChar d ≠ ' ' := by
  revert d
  decide

/-- With fuel enough, the digits are the library's. -/
theorem leDigits_eq_digits {base fuel n : Nat} (hbase : 1 < base) (hfuel : n ≤ fuel) :
    leDigits base fuel n = Nat.digits base n := by
  induction fuel generalizing n with
  | zero =>
    obtain rfl : n = 0 := by omega
    simp [leDigits]
  | succ fuel ih =>
    rcases Nat.eq_zero_or_pos n with rfl | hn
    · simp [leDigits]
    · have hdiv : n / base < n := Nat.div_lt_self hn hbase
      rw [leDigits, if_neg hn.ne', Nat.digits_def' hbase hn, ih (by omega)]

/-- Reading the characters of some digits, given least significant first, gives their number. -/
theorem foldl_readDigit_digits {base : Nat} {ds : List Nat} (hbase : base ≤ 16) (hds : ∀ d ∈ ds, d < base) :
    (ds.reverse.map digitChar).foldl (readDigit base) (some 0) = some (Nat.ofDigits base ds) := by
  induction ds with
  | nil => rfl
  | cons d ds ih =>
    obtain ⟨hd, hds⟩ := List.forall_mem_cons.1 hds
    simp only [List.reverse_cons, List.map_append, List.foldl_append, ih hds, List.map_cons, List.map_nil,
      List.foldl_cons, List.foldl_nil, readDigit, charDigit_digitChar (hd.trans_le hbase), if_pos hd, Nat.ofDigits_cons]
    rw [Nat.mul_comm, Nat.add_comm]

section PrintNumber
variable {base least : Nat}

/-- The digits that a printed number is made of, least significant first. -/
theorem printNumber_eq (hbase : 1 < base) (n : Nat) :
    printNumber base least n = ((padDigits least (Nat.digits base n)).reverse).map digitChar := by
  rw [printNumber, leDigits_eq_digits hbase le_rfl]

theorem lt_base_of_mem_padDigits {n d : Nat} (hbase : 1 < base) (hd : d ∈ padDigits least (Nat.digits base n)) :
    d < base := by
  rcases List.mem_append.1 hd with hd | hd
  · exact Nat.digits_lt_base hbase hd
  · rw [List.eq_of_mem_replicate hd]
    omega

theorem printNumber_ne_nil (hleast : 0 < least) (n : Nat) : printNumber base least n ≠ [] := by
  apply List.ne_nil_of_length_pos
  simp only [printNumber, padDigits, List.length_map, List.length_reverse, List.length_append, List.length_replicate]
  omega

theorem space_notMem_printNumber (hbase : 1 < base) (hle : base ≤ 16) (n : Nat) :
    ' ' ∉ printNumber base least n := by
  rw [printNumber_eq hbase, List.mem_map]
  rintro ⟨d, hd, hspace⟩
  have hlt : d < base := lt_base_of_mem_padDigits hbase (List.mem_reverse.1 hd)
  exact digitChar_ne_space (hlt.trans_le hle) hspace

/-- A number is read back from its digits, with or without leading zeros. -/
theorem readNumber_printNumber (hbase : 1 < base) (hle : base ≤ 16) (hleast : 0 < least) (n : Nat) :
    readNumber base (printNumber base least n) = some n := by
  obtain ⟨ch, rest, hcons⟩ := List.exists_cons_of_ne_nil (printNumber_ne_nil (base := base) hleast n)
  rw [hcons, readNumber, ← hcons, printNumber_eq hbase,
    foldl_readDigit_digits hle fun d hd => lt_base_of_mem_padDigits hbase hd, padDigits,
    Nat.ofDigits_append_replicate_zero, Nat.ofDigits_digits]

end PrintNumber

/-! The operands. -/

theorem readNumber_printAddress (a : Nat) : readNumber 16 (printAddress a) = some a :=
  readNumber_printNumber (by decide) (by decide) (by decide) a

@[simp] theorem readAddress_printAddress (a : Nat) : readAddress (printAddress a) = .ok a := by
  simp only [readAddress, readNumber_printAddress]

theorem readHex_printAddress {bound a : Nat} (ha : a < bound) : readHex bound (printAddress a) = .ok a := by
  simp only [readHex, readNumber_printAddress, if_pos ha]

@[simp] theorem readByte_printByte (b : Byte) : readByte (printByte b) = .ok b := by
  have hnumber : readNumber 16 (printByte b) = some b.toNat :=
    readNumber_printNumber (by decide) (by decide) (by decide) b.toNat
  have hlt : b.toNat < 256 := b.isLt
  simp only [readByte, readHex, hnumber, if_pos hlt, BitVec.ofNat_toNat, BitVec.setWidth_eq]

@[simp] theorem readCycle_printNumber (c : Nat) : readCycle ('@' :: printNumber 10 1 c) = .ok c := by
  have hnumber : readNumber 10 (printNumber 10 1 c) = some c :=
    readNumber_printNumber (by decide) (by decide) (by decide) c
  simp only [readCycle, hnumber]

@[simp] theorem readBytes_map_printByte (blob : List Byte) : readBytes (blob.map printByte) = .ok blob := by
  induction blob with
  | nil => rfl
  | cons b blob ih => simp only [List.map_cons, readBytes, readByte_printByte, ih]

@[simp] theorem space_notMem_printAddress (a : Nat) : ' ' ∉ printAddress a :=
  space_notMem_printNumber (by decide) (by decide) a

@[simp] theorem space_notMem_printByte (b : Byte) : ' ' ∉ printByte b :=
  space_notMem_printNumber (by decide) (by decide) b.toNat

@[simp] theorem space_notMem_printCycle (c : Nat) : ' ' ∉ printNumber 10 1 c :=
  space_notMem_printNumber (by decide) (by decide) c

/-! The words of a line. -/

/-- A character that is no space goes to the front of the first word. -/
theorem splitWords_cons {ch : Char} {line word : List Char} {words : List (List Char)} (hch : ch ≠ ' ')
    (h : splitWords line = word :: words) : splitWords (ch :: line) = (ch :: word) :: words := by
  rw [splitWords, if_neg hch, h]

/-- A word without spaces is one word. -/
theorem splitWords_word {word : List Char} (hword : ' ' ∉ word) : splitWords word = [word] := by
  induction word with
  | nil => rfl
  | cons ch word ih =>
    obtain ⟨hch, hword⟩ := not_or.1 (mt List.mem_cons.2 hword)
    exact splitWords_cons (Ne.symm hch) (ih hword)

/-- A word ends at the first space. -/
theorem splitWords_word_space {word : List Char} (line : List Char) (hword : ' ' ∉ word) :
    splitWords (word ++ ' ' :: line) = word :: splitWords line := by
  induction word with
  | nil => simp only [List.nil_append, splitWords, if_true]
  | cons ch word ih =>
    obtain ⟨hch, hword⟩ := not_or.1 (mt List.mem_cons.2 hword)
    exact splitWords_cons (Ne.symm hch) (ih hword)

/-- Splitting a line undoes joining words that have no spaces. -/
theorem splitWords_joinWords {word : List Char} {words : List (List Char)} (hwords : ∀ w ∈ word :: words, ' ' ∉ w) :
    splitWords (joinWords (word :: words)) = word :: words := by
  induction words generalizing word with
  | nil => exact splitWords_word (hwords word List.mem_cons_self)
  | cons next words ih =>
    obtain ⟨hword, hrest⟩ := List.forall_mem_cons.1 hwords
    rw [joinWords, splitWords_word_space _ hword, ih hrest]

theorem space_notMem_traceWords (e : Event) : ∀ w ∈ traceWords e, ' ' ∉ w := by
  cases e with
  | regw word => simp [traceWords]
  | note a c => simp [traceWords]
  | memr port a => cases port <;> simp [traceWords]
  | memw port a x => cases port <;> simp [traceWords]
  | sys call => cases call <;> simp [traceWords]

theorem traceWords_ne_nil (e : Event) : traceWords e ≠ [] := by
  cases e with
  | regw | note => exact List.cons_ne_nil _ _
  | memr port | memw port => cases port <;> exact List.cons_ne_nil _ _
  | sys call => cases call <;> exact List.cons_ne_nil _ _

/-- The line of an event splits into its words. -/
theorem splitWords_printLine (e : Event) : splitWords (printLine e) = traceWords e := by
  have hspace := space_notMem_traceWords e
  obtain ⟨name, operands, hwords⟩ := List.exists_cons_of_ne_nil (traceWords_ne_nil e)
  rw [printLine, hwords]
  exact splitWords_joinWords (hwords ▸ hspace)

/-- The words of an event name its operation and read as its operands. -/
theorem readWords_traceWords (e : Event) : readWords (traceWords e) = .ok e := by
  cases e with
  | regw word =>
    have haddress : (wordAddress word).toNat < 65536 := (wordAddress word).isLt
    simp [traceWords, readWords, twoOperands, readRegw, readHex_printAddress haddress, Event.write, packWord_fields]
  | note a c => simp [traceWords, readWords, twoOperands, readNote]
  | memr port a => cases port <;> simp [traceWords, readWords, oneOperand, readLoad]
  | memw port a x => cases port <;> simp [traceWords, readWords, twoOperands, readStore]
  | sys call => cases call <;> simp [traceWords, readWords, noOperand, readRestore]

/-- Settles O5: the line splits into the event's words, and those read as the event. -/
theorem traceRoundTrip : Obligations.TraceRoundTrip := by
  unfold Obligations.TraceRoundTrip
  intro e
  rw [readLine, splitWords_printLine, readWords_traceWords]

end Sys2Proof.Machine

namespace Sys2Proof.Machine

open Claims

/-! The edge watcher (40_edge_watcher.md R121 to R128): what one notification is, and what NOTIFY does then. -/

/-- The transition that ends at the level `b` of the watched line. -/
def Edge.to (b : Bool) : Edge := if b then .rise else .fall

theorem Edge.to_ne_none (b : Bool) : Edge.to b ≠ .none := by cases b <;> decide

theorem Edge.to_ne_to_not (b : Bool) : Edge.to b ≠ Edge.to (!b) := by cases b <;> decide

section Observe
variable {cfg : Config} {r : Regs} {a c : Nat}

theorem accepts_iff : accepts cfg r a c = true ↔
    watchedBit a = !r.ewLast ∧ debounceOk cfg r.ewLast r.ewStamp (watchedBit a) c = true := by
  simp [accepts, Bool.eq_not]

theorem accepts_eq_false_iff : accepts cfg r a c = false ↔
    watchedBit a = r.ewLast ∨ debounceOk cfg r.ewLast r.ewStamp (watchedBit a) c = false := by
  rw [accepts, Bool.and_eq_false_iff, bne_eq_false_iff_eq]

theorem classify_of_accepts (h : accepts cfg r a c = true) : classify cfg r a c = Edge.to (watchedBit a) := if_pos h

theorem classify_of_not_accepts (h : accepts cfg r a c = false) : classify cfg r a c = .none := by simp [classify, h]

theorem observeRegs_of_accepts (h : accepts cfg r a c = true) :
    observeRegs cfg r a c = { r with ewLast := watchedBit a, ewStamp := c } := if_pos h

theorem observeRegs_of_not_accepts (h : accepts cfg r a c = false) : observeRegs cfg r a c = r := by
  simp [observeRegs, h]

end Observe

/-- The state with the watcher's two fields set: the bit last accepted, and its position (R125). -/
def State.setWatcher (s : State) (b : Bool) (c : Nat) : State :=
  s.setRegs { s.regs with ewLast := b, ewStamp := c }

section ExecNotify
variable {s : State} {a c : Nat}

/-- None: nothing is stored and nothing is clocked (R123). -/
theorem execNotify_of_not_accepts (h : accepts s.cfg s.regs a c = false) :
    execNotify a c s = .next (s.answer .void) := by
  rw [execNotify_eq, classify_of_not_accepts h, observeRegs_of_not_accepts h]
  rfl

/-- An accepted transition stores the bit and the position (R123); a Rise then clocks the counter (R121). -/
theorem execNotify_of_accepts (h : accepts s.cfg s.regs a c = true) {b : Bool} (hbit : watchedBit a = b) :
    execNotify a c s =
      .next ((if b then clockIrq (s.setWatcher b c) else s.setWatcher b c).answer .void) := by
  rw [execNotify_eq, classify_of_accepts h, observeRegs_of_accepts h, hbit]
  cases b <;> rfl

end ExecNotify

/-- Settles O37: its hypotheses say what `accepts` answers. -/
theorem notifyWithoutRise : Obligations.NotifyWithoutRise := by
  unfold Obligations.NotifyWithoutRise
  intro s a c
  constructor
  · intro h
    exact execNotify_of_not_accepts (accepts_eq_false_iff.2 h)
  · intro (hbit : watchedBit a = false) hlast hok
    have haccepts : accepts s.cfg s.regs a c = true := accepts_iff.2 (by simp [hbit, hlast, hok])
    exact execNotify_of_accepts haccepts hbit

/-- Settles O40: what observe returns and what it stores read the watched bit alone. -/
theorem notifyReadsBit12Only : Obligations.NotifyReadsBit12Only := by
  unfold Obligations.NotifyReadsBit12Only
  intro s a b c (hbit : watchedBit a = watchedBit b)
  change execNotify a c s = execNotify b c s
  rw [execNotify_eq, execNotify_eq, classify_congr hbit, observeRegs_congr hbit]

/-! The elapsed cycles (R126, R128). -/

/-- The difference of two positions of a frame, reduced into the frame: across the wrap it is counted from the next frame. -/
theorem emod_sub_of_lt {s x f : Nat} (hs : s < f) (hx : x < f) :
    emod ((x : Int) - s) f = if s ≤ x then x - s else x + f - s := by
  unfold emod
  split
  case isTrue h => rw [Int.emod_eq_of_lt] <;> omega
  case isFalse h => rw [← Int.add_emod_right, Int.emod_eq_of_lt] <;> omega

/-- Settles O41: a clause for each case of FRAME_CYCLES, and DEB_GAP unfolded. -/
theorem debGapElapsed : Obligations.DebGapElapsed := by
  unfold Obligations.DebGapElapsed
  intro c s x
  refine ⟨fun f hf hs hx => ?_, fun hf hle => ?_, fun hgap last b => ?_⟩
  · rw [elapsed, hf]
    exact emod_sub_of_lt hs hx
  · rw [elapsed, hf]
    exact if_pos hle
  · rw [debounceOk, hgap]
    rfl

/-! One clock of the counter (42_irq_counter.md R181 to R184). -/

section Clock
variable {s : State}

theorem clockIrq_count_reloads (h : s.regs.irqCount = 0#8 ∨ s.regs.irqReload = true) :
    (clockIrq s).regs.irqCount = s.regs.irqLatch := by
  rw [clockIrq_regs]
  exact if_pos h

theorem clockIrq_count_decrements (hcount : s.regs.irqCount ≠ 0#8) (hpending : s.regs.irqReload = false) :
    (clockIrq s).regs.irqCount.toNat = s.regs.irqCount.toNat - 1 := by
  have hsub : (clockIrq s).regs.irqCount = s.regs.irqCount - 1#8 := by
    rw [clockIrq_regs]
    exact if_neg (by simp [hcount, hpending])
  rw [hsub]
  bv_omega

/-- The line under Revision B, by the count after the clock. -/
theorem clockIrq_irqLine_revB (hrev : s.cfg.revision = .revB) : (clockIrq s).irqLine =
    (s.irqLine || decide ((clockIrq s).regs.irqCount = 0#8) && s.regs.irqEn) := by
  rw [clockIrq_irqLine, clockIrq_regs, clockFires, hrev]
  rfl

/-- The line under Revision A, which asks also for a count or a pending reload before the clock. -/
theorem clockIrq_irqLine_revA (hrev : s.cfg.revision = .revA) : (clockIrq s).irqLine =
    (s.irqLine || decide ((clockIrq s).regs.irqCount = 0#8) && s.regs.irqEn &&
      (!decide (s.regs.irqCount = 0#8) || s.regs.irqReload)) := by
  rw [clockIrq_irqLine, clockIrq_regs, clockFires, hrev]
  rfl

end Clock

/-- Settles O39: the counter is clocked on the state with the watcher's two fields set, and reads neither. -/
theorem notifyRiseClocksCounter : Obligations.NotifyRiseClocksCounter := by
  unfold Obligations.NotifyRiseClocksCounter
  intro s a c (hbit : watchedBit a = true) hlast hok
  have haccepts : accepts s.cfg s.regs a c = true := accepts_iff.2 (by simp [hbit, hlast, hok])
  refine ⟨(clockIrq (s.setWatcher true c)).answer .void, execNotify_of_accepts haccepts hbit, ⟨?_, ?_, ?_, ?_⟩, ?_⟩
  · exact clockIrq_count_reloads (s := s.setWatcher true c)
  · exact clockIrq_count_decrements (s := s.setWatcher true c)
  · exact clockIrq_irqLine_revB (s := s.setWatcher true c)
  · exact clockIrq_irqLine_revA (s := s.setWatcher true c)
  · simp [SameBytes, SameRest, State.setWatcher, clockRegs]

/-! Runs (R127): the level last accepted is what `ewLast` records. -/

/-- Of the instructions only NOTIFY, RESET and RESTORE touch the watcher (40_edge_watcher.md R120, 41_register_writes.md
R140). -/
theorem exec_sameWatcher {i : Instr} {s t : State} (hnotify : ∀ a c, i ≠ .notify a c) (hreset : i ≠ .reset)
    (hrestore : ∀ b, i ≠ .restore b) (hexec : exec i s = .next t) : SameWatcher s.regs t.regs := by
  cases i with
  | select | data | mirror | irqlatch | irqreload | irqdis | irqen | snapshot | query =>
    cases hexec
    exact ⟨rfl, rfl⟩
  | wramctlMmc3 | wramctlMmc6 =>
    cases hexec
    dsimp only [State.answer_regs, State.setRegs_regs]
    cases s.cfg.variant <;> exact ⟨rfl, rfl⟩
  | wramrd | prgrd | chrrd => rw [gatedRead_regs hexec]; exact ⟨rfl, rfl⟩
  | wramwr | chrwr => rw [gatedWrite_regs hexec]; exact ⟨rfl, rfl⟩
  | notify a c => exact absurd rfl (hnotify a c)
  | reset => exact absurd rfl hreset
  | restore b => exact absurd rfl (hrestore b)

/-- A NOTIFY is None and keeps the level, or it is the transition to the other level and stores that. -/
theorem execNotify_edge {a c : Nat} {s t : State} (hexec : execNotify a c s = .next t) :
    (classify s.cfg s.regs a c = .none ∧ t.regs.ewLast = s.regs.ewLast) ∨
      (classify s.cfg s.regs a c = Edge.to t.regs.ewLast ∧ t.regs.ewLast = !s.regs.ewLast) := by
  cases h : accepts s.cfg s.regs a c with
  | false =>
    rw [execNotify_of_not_accepts h] at hexec
    cases hexec
    exact .inl ⟨classify_of_not_accepts h, rfl⟩
  | true =>
    have hbit : watchedBit a = !s.regs.ewLast := (accepts_iff.1 h).1
    have hlast : t.regs.ewLast = watchedBit a := by
      rw [execNotify_of_accepts h rfl] at hexec
      cases hexec
      split <;> simp [State.setWatcher, clockRegs]
    exact .inr ⟨hlast ▸ classify_of_accepts h, hlast.trans hbit⟩

/-- An event of another format than a register write is the encoding of what it decodes to. -/
theorem eq_encode_of_decode {v : Variant} {e : Event} {i : Instr} (h : decode v e = .ok i)
    (hformat : (encode i).format ≠ .regw) : e = encode i := by
  refine (encode_of_decode ?_ h).symm
  rintro w rfl
  exact hformat (decode_format h)

theorem edgeOf_of_note {s : State} {a c : Nat} {rest : List Event} (hin : s.input = .note a c :: rest) :
    edgeOf s = classify s.cfg s.regs a c := by rw [edgeOf, hin]

theorem edgeOf_of_not_note {s : State} {e : Event} {rest : List Event} (hin : s.input = e :: rest)
    (hnote : ∀ a c, e ≠ .note a c) : edgeOf s = .none := by
  rw [edgeOf, hin]
  cases e with
  | note a c => exact absurd rfl (hnote a c)
  | regw | memr | memw | sys => rfl

/-- A step of any operation but NOTIFY, RESET and RESTORE keeps the watcher. -/
theorem step_sameWatcher {s t : State} {e : Event} {rest : List Event} (hin : s.input = e :: rest)
    (hnote : ∀ a c, e ≠ .note a c) (hreset : e ≠ .sys .reset) (hrestore : ∀ b, e ≠ .sys (.restore b))
    (hstep : step s = .next t) : SameWatcher s.regs t.regs := by
  cases hd : decode s.cfg.variant e with
  | error x =>
    rw [step_of_decode_error hin hd] at hstep
    cases hstep
    exact ⟨rfl, rfl⟩
  | ok i =>
    rw [step_of_decode_ok hin hd] at hstep
    refine exec_sameWatcher (s := s.consume rest) ?_ ?_ ?_ hstep
    · rintro a c rfl
      exact hnote a c (note_of_decode_notify hd)
    · rintro rfl
      exact hreset (eq_encode_of_decode hd (by decide))
    · rintro b rfl
      exact hrestore b (eq_encode_of_decode hd nofun)

/-- A step that is no RESET and no RESTORE accepts nothing and keeps the level, or it accepts the transition to the other
level and stores that. -/
theorem step_edge {s t : State} {e : Event} {rest : List Event} (hin : s.input = e :: rest) (hreset : e ≠ .sys .reset)
    (hrestore : ∀ b, e ≠ .sys (.restore b)) (hstep : step s = .next t) :
    (edgeOf s = .none ∧ t.regs.ewLast = s.regs.ewLast) ∨
      (edgeOf s = Edge.to t.regs.ewLast ∧ t.regs.ewLast = !s.regs.ewLast) := by
  by_cases hnote : ∃ a c, e = .note a c
  · obtain ⟨a, c, rfl⟩ := hnote
    rw [step_of_decode_ok hin rfl] at hstep
    rw [edgeOf_of_note hin]
    exact execNotify_edge (s := s.consume rest) hstep
  · have hother : ∀ a c, e ≠ .note a c := fun a c h => hnote ⟨a, c, h⟩
    exact .inl ⟨edgeOf_of_not_note hin hother, (step_sameWatcher hin hother hreset hrestore hstep).1⟩

/-- A step takes the oldest operation from the input and issues none. -/
theorem step_input {s t : State} {e : Event} {rest : List Event} (hin : s.input = e :: rest) (hstep : step s = .next t) :
    t.input = rest := by
  obtain ⟨e', rest', hin', h⟩ := step_cases hstep
  obtain ⟨-, rfl⟩ := List.cons.inj (hin'.symm.trans hin)
  obtain ⟨i, -, hexec⟩ | ⟨-, rfl⟩ := h
  · exact (exec_next_ending hexec).input_eq
  · rfl

theorem runTransitions_of_input_nil {s : State} (n : Nat) (hin : s.input = []) : runTransitions n s = [] := by
  cases n with
  | zero => rfl
  | succ n => rw [runTransitions, runEdges, step_of_input_nil hin]; rfl

theorem runTransitions_succ {s t : State} (n : Nat) (hstep : step s = .next t) : runTransitions (n + 1) s =
    if edgeOf s = .none then runTransitions n t else edgeOf s :: runTransitions n t := by
  by_cases hnone : edgeOf s = .none <;> simp [runTransitions, runEdges, hstep, hnone]

/-- The strengthened invariant: the accepted transitions alternate, and the first of them differs from the transition that
`ewLast` records. -/
theorem runTransitions_isChain (n : Nat) (s : State)
    (hinput : ∀ e ∈ s.input, e ≠ .sys .reset ∧ ∀ b, e ≠ .sys (.restore b)) :
    (Edge.to s.regs.ewLast :: runTransitions n s).IsChain (· ≠ ·) := by
  induction n generalizing s with
  | zero => exact .singleton _
  | succ n ih =>
    cases hin : s.input with
    | nil =>
      rw [runTransitions_of_input_nil _ hin]
      exact .singleton _
    | cons e rest =>
      obtain ⟨t, hstep⟩ := step_next_of_input_cons hin
      obtain ⟨hreset, hrestore⟩ := hinput e (hin ▸ List.mem_cons_self)
      have hrest : (Edge.to t.regs.ewLast :: runTransitions n t).IsChain (· ≠ ·) :=
        ih t fun f hf => hinput f (hin ▸ List.mem_cons_of_mem e (step_input hin hstep ▸ hf))
      rw [runTransitions_succ n hstep]
      obtain ⟨hnone, hkept⟩ | ⟨hedge, hflipped⟩ := step_edge hin hreset hrestore hstep
      · rwa [if_pos hnone, ← hkept]
      · rw [hedge, if_neg (Edge.to_ne_none _)]
        refine List.isChain_cons_cons.2 ⟨?_, hrest⟩
        rw [hflipped]
        exact Edge.to_ne_to_not _

/-- Settles O45: neighbours of a chain. -/
theorem acceptedTransitionsAlternate : Obligations.AcceptedTransitionsAlternate := by
  unfold Obligations.AcceptedTransitionsAlternate
  intro n s hinput k x y hx hy
  obtain ⟨hk, rfl⟩ := List.getElem?_eq_some_iff.1 hx
  obtain ⟨hk', rfl⟩ := List.getElem?_eq_some_iff.1 hy
  exact List.isChain_iff_getElem.1 (runTransitions_isChain n s hinput).tail k hk'

end Sys2Proof.Machine

namespace Sys2Proof.Machine

open Claims

/-! The register writes (41_register_writes.md R150 to R158): the pattern each is written at, the frame they share. -/

/-- A register write at every address of a pattern is the instruction of the pattern's row, when the row is one
instruction on both variants (30_encoding.md R93, R94). -/
theorem writtenAt_of_decodePattern {pattern : BitVec 16} {x : Byte} {i : Instr}
    (hrow : ∀ v, decodePattern v pattern x = .ok i) : WrittenAt pattern x i := by
  intro v a (ha : a &&& regMask = pattern)
  rw [decode_write, ha]
  exact hrow v

/-- An operation that only sets registers and returns nothing keeps the rest of the machine (R140). -/
theorem registerWriteFrame_setRegs (s : State) (r : Regs) : RegisterWriteFrame s ((s.setRegs r).answer .void) := by
  refine ⟨fun sp a => ?_, ⟨rfl, rfl, rfl⟩, rfl, rfl⟩
  rw [State.answer_memRead, State.setRegs_memRead]

/-! SELECT: the two lists of windows under a change of mode (R160, R161). -/

theorem chrSelMode0_add_four (b : Vector Byte 8) (k : Fin 8) : chrSelMode0 b (k + 4) = chrSelMode1 b k := by
  fin_cases k <;> rfl

theorem chrSelMode1_add_four (b : Vector Byte 8) (k : Fin 8) : chrSelMode1 b (k + 4) = chrSelMode0 b k := by
  fin_cases k <;> rfl

section ModeChange
variable {r q : Regs} (c : Config)

/-- The other CHR mode exchanges the halves of the list, the order inside each kept (D29). -/
theorem chrEntry_of_mode_ne (hmode : q.chrMode ≠ r.chrMode) (hbank : q.bank = r.bank) (k : Fin 8) :
    chrEntry c q k = chrEntry c r (k + 4) := by
  have hsel : chrSel q k = chrSel r (k + 4) := by
    rw [chrSel, chrSel, hbank, chrSelMode0_add_four, chrSelMode1_add_four, Bool.eq_not_of_ne hmode]
    cases r.chrMode <;> rfl
  rw [chrEntry, chrEntry, hsel]

/-- The other PRG mode swaps the windows 0 and 2. -/
theorem prgEntry_of_mode_ne (hmode : q.prgMode ≠ r.prgMode) (hbank : q.bank = r.bank) :
    prgEntry c q 0 = prgEntry c r 2 ∧ prgEntry c q 2 = prgEntry c r 0 := by
  have hsel : prgSel q 0 = prgSel r 2 ∧ prgSel q 2 = prgSel r 0 := by
    rw [prgSel, prgSel, prgSel, prgSel, hbank, Bool.eq_not_of_ne hmode]
    cases r.prgMode <;> exact ⟨rfl, rfl⟩
  obtain ⟨h0, h2⟩ := hsel
  simp only [prgEntry, h0, h2, and_self]

end ModeChange

/-- Settles O13: SELECT keeps the banks, and the windows are exchanged when a mode bit differs. -/
theorem selectLatchesIndexAndModes : Obligations.SelectLatchesIndexAndModes := by
  unfold Obligations.SelectLatchesIndexAndModes
  intro x s
  exact ⟨_, rfl, rfl, rfl, rfl, rfl, fun hmode => chrEntry_of_mode_ne s.cfg hmode rfl,
    fun hmode => prgEntry_of_mode_ne s.cfg hmode rfl, registerWriteFrame_setRegs s _,
    writtenAt_of_decodePattern fun _ => rfl⟩

/-! DATA: the byte it stores, by the index (R151). -/

theorem dataByte_of_le_one {sel : BitVec 3} (x : Byte) (hsel : sel.toNat ≤ 1) : dataByte sel x = clearBit0 x :=
  if_pos (by bv_omega)

theorem dataByte_of_two_le {sel : BitVec 3} (x : Byte) (hsel : 2 ≤ sel.toNat) : dataByte sel x = x :=
  if_neg (by bv_omega)

/-- Settles O14: reading the vector of banks after one of them is set. -/
theorem dataWritesSelectedBank : Obligations.DataWritesSelectedBank := by
  unfold Obligations.DataWritesSelectedBank
  intro x s
  refine ⟨_, rfl, fun hsel => ?_, fun hsel => ?_, fun k hk => ?_, rfl, registerWriteFrame_setRegs s _,
    writtenAt_of_decodePattern fun _ => rfl⟩
  · exact (Vector.getElem_set_self _).trans (dataByte_of_le_one x hsel)
  · exact (Vector.getElem_set_self _).trans (dataByte_of_two_le x hsel)
  · exact Vector.getElem_set_ne s.regs.sel.isLt k.isLt hk.symm

/-- Settles O15: no window reads the mirroring bit. -/
theorem mirrorChangesMirroringOnly : Obligations.MirrorChangesMirroringOnly := by
  unfold Obligations.MirrorChangesMirroringOnly
  intro x s
  refine ⟨_, rfl, rfl, rfl, fun _ => rfl, fun _ => rfl, fun hfour => ?_, fun hfour => ?_,
    registerWriteFrame_setRegs s _, writtenAt_of_decodePattern fun _ => rfl⟩
  · simp [mirroring, hfour]
  · simp [mirroring, hfour]

/-! The low window's permissions (R162, R163), and WRAMCTL. -/

theorem lowPerm_eq (c : Config) (r : Regs) : lowPerm c r =
    if c.wramSize ≠ 0 ∧ r.wramEn = true then (if r.wramWp then .r else .rw) else .none := by
  unfold lowPerm
  by_cases hsize : c.wramSize = 0
  · simp [hsize]
  · cases r.wramEn <;> cases r.wramWp <;> simp [hsize]

/-- A permission is given exactly by a store that is enabled, and the protect bit takes the writing from it. -/
theorem lowPerm_cases (c : Config) (r : Regs) :
    (lowPerm c r ≠ .none ↔ c.wramSize ≠ 0 ∧ r.wramEn = true) ∧
      (lowPerm c r ≠ .none → lowPerm c r = if r.wramWp then .r else .rw) ∧ lowPerm c r ≠ .w := by
  rw [lowPerm_eq]
  split
  case isTrue hopen => cases r.wramWp <;> simp [hopen]
  case isFalse hopen => simp [hopen]

theorem lowPermHalf_of_no_wram {c : Config} (r : Regs) (h : Half) (hsize : c.wramSize = 0) :
    lowPermHalf c r h = .none := if_pos hsize

/-- With a store each half can be read and written by its own two bits. -/
theorem lowPermHalf_access {c : Config} (r : Regs) (hsize : c.wramSize ≠ 0) :
    (canRead (lowPermHalf c r .h0) = r.h0r ∧ canWrite (lowPermHalf c r .h0) = r.h0w) ∧
      (canRead (lowPermHalf c r .h1) = r.h1r ∧ canWrite (lowPermHalf c r .h1) = r.h1w) := by
  have h0 : lowPermHalf c r .h0 = permOf r.h0r r.h0w := if_neg hsize
  have h1 : lowPermHalf c r .h1 = permOf r.h1r r.h1w := if_neg hsize
  simp [h0, h1]

/-- Settles O25, from what the two permission functions answer. -/
theorem lowWindowPermissions : Obligations.LowWindowPermissions := by
  unfold Obligations.LowWindowPermissions
  intro c r
  obtain ⟨hsome, hprotect, hw⟩ := lowPerm_cases c r
  exact ⟨hsome, hprotect, hw, fun hsize h => lowPermHalf_of_no_wram r h hsize,
    fun hsize => and_assoc.1 (lowPermHalf_access r hsize)⟩

/-- On a cartridge of its own variant a WRAMCTL row writes that variant's bits (30_encoding.md R106). -/
theorem exec_wramctlMmc3 {s : State} (x : Byte) (hv : s.cfg.variant = .mmc3) :
    exec (.wramctlMmc3 x) s = .next ((s.setRegs (wramctlMmc3Regs x s.regs)).answer .void) := by
  rw [exec, execWramctlMmc3, hv, complete_eq, wramctlRegs]

theorem exec_wramctlMmc6 {s : State} (x : Byte) (hv : s.cfg.variant = .mmc6) :
    exec (.wramctlMmc6 x) s = .next ((s.setRegs (wramctlMmc6Regs x s.regs)).answer .void) := by
  rw [exec, execWramctlMmc6, hv, complete_eq, wramctlRegs]

/-- Settles O16: the permission is the one of the two bits just written. -/
theorem wramctlMmc3SetsLowPermission : Obligations.WramctlMmc3SetsLowPermission := by
  unfold Obligations.WramctlMmc3SetsLowPermission
  intro x s hv
  exact ⟨_, exec_wramctlMmc3 x hv, rfl, rfl, rfl, lowPerm_eq s.cfg _, registerWriteFrame_setRegs s _⟩

/-- Settles O17: each half's permission is the one of its two bits just written. -/
theorem wramctlMmc6SetsHalfPermissions : Obligations.WramctlMmc6SetsHalfPermissions := by
  unfold Obligations.WramctlMmc6SetsHalfPermissions
  intro x s hv
  exact ⟨_, exec_wramctlMmc6 x hv, rfl, rfl, rfl, rfl, rfl, lowPermHalf_access _,
    fun hsize h => lowPermHalf_of_no_wram _ h hsize, registerWriteFrame_setRegs s _⟩

/-! The interrupt registers (R155 to R158). -/

/-- Settles O18: the clock after it reloads from the latch just written. -/
theorem irqlatchStoresReloadValue : Obligations.IrqlatchStoresReloadValue := by
  unfold Obligations.IrqlatchStoresReloadValue
  intro x s
  exact ⟨_, rfl, rfl, rfl, registerWriteFrame_setRegs s _, fun hreload => clockIrq_count_reloads hreload,
    writtenAt_of_decodePattern fun _ => rfl⟩

/-- Settles O19: the count 0 makes the next clock reload. -/
theorem irqreloadZeroesCounter : Obligations.IrqreloadZeroesCounter := by
  unfold Obligations.IrqreloadZeroesCounter
  intro x y s
  exact ⟨_, rfl, rfl, rfl, rfl, registerWriteFrame_setRegs s _, rfl, clockIrq_count_reloads (.inl rfl),
    writtenAt_of_decodePattern fun _ => rfl⟩

/-- Settles O20: it sets the enable and the line to constants, so a second one sets the same. -/
theorem irqdisAcknowledges : Obligations.IrqdisAcknowledges := by
  unfold Obligations.IrqdisAcknowledges
  intro x y s
  refine ⟨_, rfl, rfl, rfl, rfl, fun sp a => ?_, ⟨rfl, rfl, rfl⟩, rfl, rfl, writtenAt_of_decodePattern fun _ => rfl⟩
  rw [State.answer_memRead, State.clearIrq_memRead, State.setRegs_memRead]

/-- Settles O21: the line is in the frame that every register write but IRQDIS has. -/
theorem irqenSetsEnableOnly : Obligations.IrqenSetsEnableOnly := by
  unfold Obligations.IrqenSetsEnableOnly
  intro x s
  exact ⟨_, rfl, rfl, rfl, registerWriteFrame_setRegs s _, writtenAt_of_decodePattern fun _ => rfl⟩

/-! The pages of the windows (R160, R161). -/

/-- An even byte is its own "forced-even". -/
theorem clearBit0_of_even {v : Byte} (hv : v.getLsbD 0 = false) : clearBit0 v = v := by
  revert v; decide

/-- The "forced-odd" of an even byte is the next number. -/
theorem setBit0_toNat_of_even {v : Byte} (hv : v.getLsbD 0 = false) : (setBit0 v).toNat = v.toNat + 1 := by
  revert v; decide

/-- The page of a CHR window on a store with pages, by its selector. -/
theorem chrEntry_page {c : Config} (r : Regs) (k : Fin 8) (hn : 0 < c.chrPages) : (chrEntry c r k).page =
    some ((if r.chrMode then chrSelMode1 r.bank k else chrSelMode0 r.bank k).toNat % c.chrPages) := by
  rw [chrEntry, entryOf_pages _ _ hn, chrSel]
  cases r.chrMode <;> exact congrArg some (emod_nat _ _)

theorem prgEntry_page {c : Config} (r : Regs) (k : Fin 4) (hn : 0 < c.prgPages) :
    (prgEntry c r k).page = some (emod (prgSel r k) c.prgPages) := by
  rw [prgEntry, entryOf_pages _ _ hn]

/-- Settles O22, by the mode and the window: a valid bank[0] or bank[1] is even, so its pair is itself and the next
number. -/
theorem chrWindowPages : Obligations.ChrWindowPages := by
  unfold Obligations.ChrWindowPages
  intro c r hvalid hn b n pairs singles pages k
  obtain ⟨h0, h1, -⟩ := Regs.valid_iff.1 hvalid
  have hpair0 := And.intro (clearBit0_of_even h0) (setBit0_toNat_of_even h0)
  have hpair1 := And.intro (clearBit0_of_even h1) (setBit0_toNat_of_even h1)
  rw [chrEntry_page r k hn]
  cases hmode : r.chrMode <;> fin_cases k <;>
    simp [pages, pairs, singles, b, n, hmode, chrSelMode0, chrSelMode1, hpair0, hpair1]

/-- Settles O23, by the mode and the window. -/
theorem prgWindowPages : Obligations.PrgWindowPages := by
  unfold Obligations.PrgWindowPages
  intro c r hn n b6 b7 pages k
  rw [prgEntry_page r k hn]
  cases hmode : r.prgMode <;> fin_cases k <;>
    simp [pages, n, b6, b7, hmode, prgSel, prgSelMode0, prgSelMode1, emod_nat, emod_neg_one hn, emod_neg_two hn]

/-! The counter (42_irq_counter.md R180). -/

/-- Of the instructions only NOTIFY, RESET, RESTORE and IRQRELOAD touch the counter and its pending flag. -/
theorem exec_sameCounter {i : Instr} {s t : State} (hnotify : ∀ a c, i ≠ .notify a c) (hreset : i ≠ .reset)
    (hrestore : ∀ b, i ≠ .restore b) (hreload : ∀ x, i ≠ .irqreload x) (hexec : exec i s = .next t) :
    t.regs.irqCount = s.regs.irqCount ∧ t.regs.irqReload = s.regs.irqReload := by
  cases i with
  | select | data | mirror | irqlatch | irqdis | irqen | snapshot | query =>
    cases hexec
    exact ⟨rfl, rfl⟩
  | wramctlMmc3 | wramctlMmc6 =>
    cases hexec
    dsimp only [State.answer_regs, State.setRegs_regs]
    cases s.cfg.variant <;> exact ⟨rfl, rfl⟩
  | wramrd | prgrd | chrrd => rw [gatedRead_regs hexec]; exact ⟨rfl, rfl⟩
  | wramwr | chrwr => rw [gatedWrite_regs hexec]; exact ⟨rfl, rfl⟩
  | notify a c => exact absurd rfl (hnotify a c)
  | reset => exact absurd rfl hreset
  | restore b => exact absurd rfl (hrestore b)
  | irqreload x => exact absurd rfl (hreload x)

/-- Settles O50: one lemma for the watcher, one for the counter. -/
theorem watcherAndCounterChangedOnlyBy : Obligations.WatcherAndCounterChangedOnlyBy := by
  unfold Obligations.WatcherAndCounterChangedOnlyBy
  intro i s t hexec hnotify hreset hrestore
  exact ⟨exec_sameWatcher hnotify hreset hrestore hexec,
    fun hreload => exec_sameCounter hnotify hreset hrestore hreload hexec⟩

end Sys2Proof.Machine

namespace Sys2Proof.Machine

open Claims

/-! The interrupt line under one operation and under a run (42_irq_counter.md R180, R187, 60_exceptions.md R242). -/

/-- Of the endings only the asserting one sets a clear line: a NOTIFY that is a Rise. -/
theorem Ending.rise_of_irqLine_set {i : Instr} {s t : State} (h : Ending i s t) (hs : s.irqLine = false)
    (ht : t.irqLine = true) : ∃ a c, i = .notify a c ∧ classify s.cfg s.regs a c = .rise := by
  cases h with
  | asserts r a c op rise => exact ⟨a, c, op, rise⟩
  | clears => cases ht
  | sets | answers | draws | storesChr | storesWram => exact absurd (hs.symm.trans ht) Bool.false_ne_true

/-- Of the endings only the clearing one clears a set line: RESET or IRQDIS. -/
theorem Ending.clears_of_irqLine_cleared {i : Instr} {s t : State} (h : Ending i s t) (hs : s.irqLine = true)
    (ht : t.irqLine = false) : i = .reset ∨ ∃ x, i = .irqdis x := by
  cases h with
  | clears r op => exact op
  | asserts => cases ht
  | sets | answers | draws | storesChr | storesWram => exact absurd (ht.symm.trans hs) Bool.false_ne_true

/-- A step of an operation that is no RESET and no IRQDIS keeps a set line. -/
theorem step_irqLine_held {s t : State} {e : Event} {rest : List Event} (hin : s.input = e :: rest)
    (hreset : decode s.cfg.variant e ≠ .ok .reset) (hirqdis : ∀ x, decode s.cfg.variant e ≠ .ok (.irqdis x))
    (hstep : step s = .next t) (hline : s.irqLine = true) : t.irqLine = true := by
  obtain ⟨e', rest', hin', h⟩ := step_cases hstep
  obtain ⟨rfl, rfl⟩ := List.cons.inj (hin'.symm.trans hin)
  obtain ⟨i, hd, hexec⟩ | ⟨-, rfl⟩ := h
  · rw [← Bool.not_eq_false]
    intro hcleared
    obtain rfl | ⟨x, rfl⟩ := (exec_next_ending hexec).clears_of_irqLine_cleared hline hcleared
    · exact hreset hd
    · exact hirqdis x hd
  · exact hline

/-- Settles O47, by induction on the run: its steps keep cfg, so the rest of the input decodes as before. -/
theorem lineHeldOverRuns : Obligations.LineHeldOverRuns := by
  unfold Obligations.LineHeldOverRuns
  intro n
  induction n with
  | zero =>
    intro s t hrun hline _
    cases hrun
    exact hline
  | succ n ih =>
    intro s t hrun hline hinput
    obtain ⟨u, hstep, hrun'⟩ := run_inv hrun
    obtain ⟨e, rest, hin, -⟩ := step_cases hstep
    obtain ⟨hreset, hirqdis⟩ := hinput e (hin ▸ List.mem_cons_self)
    refine ih u t hrun' (step_irqLine_held hin hreset hirqdis hstep hline) fun f hf => ?_
    rw [(noStepChangesCfgOrPrg s u hstep).1]
    exact hinput f (hin ▸ List.mem_cons_of_mem e (step_input hin hstep ▸ hf))

/-! One clock: the count it leaves and the assertion condition (R181, R184, R188). -/

/-- A clock returns nothing of its own (R181). -/
@[simp] theorem clockIrq_returned (s : State) : (clockIrq s).returned = s.returned := by
  unfold clockIrq; dsimp only; split <;> rfl

/-- Revision A's condition is Revision B's, and a count or a pending reload before the clock. -/
theorem clockFires_eq (c : Config) (r : Regs) : clockFires c r =
    (decide ((clockRegs r).irqCount = 0#8) && r.irqEn &&
      (decide (c.revision = .revB) || (!decide (r.irqCount = 0#8) || r.irqReload))) := by
  rw [clockFires]
  cases c.revision with
  | revA => rfl
  | revB => exact (Bool.and_true _).symm

/-- Under both revisions it takes the enable and the count 0 after the clock. -/
theorem irqEn_and_count_of_clockFires {c : Config} {r : Regs} (h : clockFires c r = true) :
    r.irqEn = true ∧ (clockRegs r).irqCount = 0#8 := by
  rw [clockFires_eq, Bool.and_eq_true, Bool.and_eq_true, decide_eq_true_eq] at h
  obtain ⟨⟨hcount, hen⟩, -⟩ := h
  exact ⟨hen, hcount⟩

theorem clockRegs_count_reloads {r : Regs} (h : r.irqCount = 0#8 ∨ r.irqReload = true) :
    (clockRegs r).irqCount = r.irqLatch := if_pos h

theorem clockRegs_count_decrements {r : Regs} (hcount : r.irqCount ≠ 0#8) (hpending : r.irqReload = false) :
    (clockRegs r).irqCount = r.irqCount - 1#8 := if_neg (by simp [hcount, hpending])

/-- The count is 0 after a clock that decrements it from 1, and after one that reloads 0. -/
theorem decide_clockRegs_count_eq_zero (r : Regs) : decide ((clockRegs r).irqCount = 0#8) =
    if r.irqCount ≠ 0#8 ∧ r.irqReload = false then decide (r.irqCount = 1#8) else decide (r.irqLatch = 0#8) := by
  split
  case isTrue h =>
    rw [clockRegs_count_decrements h.1 h.2, decide_eq_decide]
    bv_omega
  case isFalse h => rw [clockRegs_count_reloads (by simpa [imp_iff_not_or] using h)]

/-- With a positive reload value the revisions agree: the count reaches 0 from 1 alone. -/
theorem clockFires_of_irqLatch_ne_zero {r : Regs} (c : Config) (hlatch : r.irqLatch ≠ 0#8) :
    clockFires c r = (decide ((clockRegs r).irqCount = 0#8) && r.irqEn) := by
  by_cases hzero : (clockRegs r).irqCount = 0#8
  · have hprev : r.irqCount ≠ 0#8 := fun h => hlatch ((clockRegs_count_reloads (.inl h)).symm.trans hzero)
    simp [clockFires_eq, hprev]
  · simp [clockFires_eq, hzero]

/-- Settles O42: the revisions differ by the factor of Revision A alone, which fails only from the count 0 with no reload
pending; there the clock reloads, so the count after it is the reload value. -/
theorem revisionMatrix : Obligations.RevisionMatrix := by
  unfold Obligations.RevisionMatrix
  intro c r
  constructor
  · intro zeroNow
    have hzero : decide ((clockRegs r).irqCount = 0#8) = zeroNow := decide_clockRegs_count_eq_zero r
    constructor
    · intro hrev
      simp [clockFires_eq, hrev, hzero, Bool.and_comm]
    · intro hrev
      simp [clockFires_eq, hrev, hzero, Bool.and_comm r.irqEn]
  · by_cases hidle : r.irqCount = 0#8 ∧ r.irqReload = false
    · obtain ⟨hcount, hpending⟩ := hidle
      simp [clockFires_eq, hcount, hpending, clockRegs_count_reloads]
    · have hown : (!decide (r.irqCount = 0#8) || r.irqReload) = true := by simpa [imp_iff_not_or] using hidle
      have hsame : clockFires { c with revision := .revA } r = clockFires { c with revision := .revB } r := by
        simp [clockFires_eq, hown]
      exact ⟨fun hne => absurd hsame hne, fun ⟨hcount, hpending, _⟩ => absurd ⟨hcount, hpending⟩ hidle⟩

/-- Settles O46: the endings name the operation, and the condition that fired gives the enable and the count. -/
theorem lineChangesOnlyBy : Obligations.LineChangesOnlyBy := by
  unfold Obligations.LineChangesOnlyBy
  intro i s t hexec
  refine ⟨fun hs ht => ?_, (exec_next_ending hexec).clears_of_irqLine_cleared⟩
  obtain ⟨a, c, rfl, hrise⟩ := (exec_next_ending hexec).rise_of_irqLine_set hs ht
  replace hexec : execNotify a c s = .next t := hexec
  rw [execNotify_eq, if_pos hrise] at hexec
  cases hexec
  have hfires : clockFires s.cfg (observeRegs s.cfg s.regs a c) = true := by simpa [hs] using ht
  obtain ⟨hen, hcount⟩ := irqEn_and_count_of_clockFires hfires
  rw [observeRegs_frame] at hen
  exact ⟨a, c, rfl, hrise, hen, by simpa using hcount⟩

/-- Settles O38, from the rules of one clock. -/
theorem clockIrqAlgorithm : Obligations.ClockIrqAlgorithm := by
  unfold Obligations.ClockIrqAlgorithm
  intro s
  refine ⟨clockIrq_count_reloads, fun hcount hpending => ?_, clockIrq_irqLine_revB, clockIrq_irqLine_revA, ?_,
    clockIrq_memRead s, ⟨clockIrq_cfg s, clockIrq_input s, clockIrq_draws s⟩, clockIrq_returned s⟩
  · rw [clockIrq_count_decrements hcount hpending]
    bv_omega
  · rw [clockIrq_regs]
    rfl

/-! Successive Rises (R189): what repeated clocks keep, and the count they leave. -/

/-- A remainder counts up to its last value and then starts again. -/
theorem succ_mod_eq (k n : Nat) : (k + 1) % (n + 1) = if k % (n + 1) = n then 0 else k % (n + 1) + 1 := by
  have hlt : k % (n + 1) < n + 1 := Nat.mod_lt k n.succ_pos
  rw [← Nat.mod_add_mod]
  split
  case isTrue h => rw [h, Nat.mod_self]
  case isFalse h => exact Nat.mod_eq_of_lt (by omega)

/-- What one clock keeps, any number of clocks keeps. -/
theorem clockIrq_iterate_keeps {α : Type} {f : State → α} (hf : ∀ s, f (clockIrq s) = f s) (k : Nat) (s : State) :
    f (clockIrq^[k] s) = f s := by
  induction k with
  | zero => rfl
  | succ k ih => rw [Function.iterate_succ_apply', hf, ih]

section Iterate
variable {s : State}

@[simp] theorem clockIrq_iterate_irqLatch (k : Nat) : (clockIrq^[k] s).regs.irqLatch = s.regs.irqLatch :=
  clockIrq_iterate_keeps (f := (·.regs.irqLatch)) (fun s => by simp [clockRegs]) k s

@[simp] theorem clockIrq_iterate_irqEn (k : Nat) : (clockIrq^[k] s).regs.irqEn = s.regs.irqEn :=
  clockIrq_iterate_keeps (f := (·.regs.irqEn)) (fun s => by simp [clockRegs]) k s

@[simp] theorem clockIrq_iterate_cfg (k : Nat) : (clockIrq^[k] s).cfg = s.cfg := clockIrq_iterate_keeps clockIrq_cfg k s

theorem clockIrq_iterate_succ_regs (k : Nat) : (clockIrq^[k + 1] s).regs = clockRegs (clockIrq^[k] s).regs := by
  rw [Function.iterate_succ_apply', clockIrq_regs]

/-- No reload is pending after a clock. -/
theorem clockIrq_iterate_succ_irqReload (k : Nat) : (clockIrq^[k + 1] s).regs.irqReload = false := by
  rw [clockIrq_iterate_succ_regs]
  rfl

/-- The line after one clock more: as it was, or set by a condition that fires. -/
theorem clockIrq_iterate_succ_irqLine (k : Nat) : (clockIrq^[k + 1] s).irqLine =
    ((clockIrq^[k] s).irqLine || clockFires s.cfg (clockIrq^[k] s).regs) := by
  rw [Function.iterate_succ_apply', clockIrq_irqLine, clockIrq_iterate_cfg]

/-- The count starts at the reload value, falls to 0 and starts again. -/
theorem clockIrq_iterate_succ_irqCount (hpending : s.regs.irqReload = true) (k : Nat) :
    (clockIrq^[k + 1] s).regs.irqCount.toNat = s.regs.irqLatch.toNat - k % (s.regs.irqLatch.toNat + 1) := by
  induction k with
  | zero => simp [clockRegs_count_reloads (.inr hpending)]
  | succ k ih =>
    rw [clockIrq_iterate_succ_regs, succ_mod_eq]
    by_cases hcount : (clockIrq^[k + 1] s).regs.irqCount = 0#8
    · have hend : k % (s.regs.irqLatch.toNat + 1) = s.regs.irqLatch.toNat := by
        have hlt : k % (s.regs.irqLatch.toNat + 1) < s.regs.irqLatch.toNat + 1 := Nat.mod_lt k (Nat.succ_pos _)
        have hzero : (clockIrq^[k + 1] s).regs.irqCount.toNat = 0 := congrArg BitVec.toNat hcount
        omega
      rw [clockRegs_count_reloads (.inl hcount), if_pos (by rw [hend]), clockIrq_iterate_irqLatch]
      rfl
    · have hpos : (clockIrq^[k + 1] s).regs.irqCount.toNat ≠ 0 := fun h => hcount (BitVec.eq_of_toNat_eq h)
      rw [clockRegs_count_decrements hcount (clockIrq_iterate_succ_irqReload k), if_neg (by omega)]
      bv_omega

/-- From a pending reload of a positive value the condition fires at every clock that leaves the count 0, under both
revisions. -/
theorem clockFires_iterate (hlatch : 0 < s.regs.irqLatch.toNat) (hpending : s.regs.irqReload = true)
    (hen : s.regs.irqEn = true) (k : Nat) : clockFires s.cfg (clockIrq^[k] s).regs =
      decide (k % (s.regs.irqLatch.toNat + 1) = s.regs.irqLatch.toNat) := by
  have hne : (clockIrq^[k] s).regs.irqLatch ≠ 0#8 := by
    rw [clockIrq_iterate_irqLatch]
    bv_omega
  have hcount := clockIrq_iterate_succ_irqCount hpending k
  have hlt : k % (s.regs.irqLatch.toNat + 1) < s.regs.irqLatch.toNat + 1 := Nat.mod_lt k (Nat.succ_pos _)
  rw [clockFires_of_irqLatch_ne_zero s.cfg hne, ← clockIrq_iterate_succ_regs, clockIrq_iterate_irqEn, hen,
    Bool.and_true, decide_eq_decide, ← BitVec.toNat_inj, hcount]
  change _ = 0 ↔ _
  omega

end Iterate

/-- Settles O43: the line is first set where the condition first fires, at the clock N + 1. -/
theorem counterPeriod : Obligations.CounterPeriod := by
  unfold Obligations.CounterPeriod
  intro s hlatch _ hpending hen k
  refine ⟨clockIrq_iterate_succ_irqCount hpending k, clockFires_iterate hlatch hpending hen k, ?_⟩
  induction k with
  | zero => simp
  | succ k ih =>
    rw [clockIrq_iterate_succ_irqLine, ih, clockFires_iterate hlatch hpending hen, Bool.or_assoc, ← Bool.decide_or]
    have hfirst : s.regs.irqLatch.toNat + 1 ≤ k ∨ k % (s.regs.irqLatch.toNat + 1) = s.regs.irqLatch.toNat ↔
        s.regs.irqLatch.toNat + 1 ≤ k + 1 := by
      by_cases hk : k < s.regs.irqLatch.toNat + 1
      · rw [Nat.mod_eq_of_lt hk]
        omega
      · omega
    rw [decide_eq_decide.2 hfirst]

/-- With the reload value 0 the count stays 0. -/
theorem clockIrq_iterate_irqCount_eq_zero {s : State} (hlatch : s.regs.irqLatch = 0#8) (hcount : s.regs.irqCount = 0#8)
    (k : Nat) : (clockIrq^[k] s).regs.irqCount = 0#8 := by
  induction k with
  | zero => exact hcount
  | succ k ih => rw [clockIrq_iterate_succ_regs, clockRegs_count_reloads (.inl ih), clockIrq_iterate_irqLatch, hlatch]

/-- Settles O44: the count is 0 before and after every Rise, and a reload is pending before the first alone. -/
theorem counterWithZeroReload : Obligations.CounterWithZeroReload := by
  unfold Obligations.CounterWithZeroReload
  intro s hlatch hcount hpending hen k
  have hzero := clockIrq_iterate_irqCount_eq_zero hlatch hcount
  have hfires : clockFires s.cfg (clockIrq^[k] s).regs =
      (decide (s.cfg.revision = .revB) || (clockIrq^[k] s).regs.irqReload) := by
    rw [clockFires_eq, ← clockIrq_iterate_succ_regs, hzero k, hzero (k + 1), clockIrq_iterate_irqEn, hen]
    rfl
  refine ⟨hzero (k + 1), fun hrev => ?_, fun hrev => ?_⟩
  · rw [hfires, hrev]
    rfl
  · rw [hfires, hrev]
    cases k with
    | zero => exact hpending
    | succ k => exact clockIrq_iterate_succ_irqReload k

end Sys2Proof.Machine

namespace Sys2Proof.Machine

open Claims

/-! What a gated access answers, by the byte it may reach (20_memory.md R60). -/

theorem gatedRead_answers (s : State) (sp : Space) (target : Option Nat) : ∃ t, gatedRead s sp target = .next t ∧
    (∀ off, target = some off → ReturnsByteAt sp off s t) ∧ (target = none → ReturnsDraw s t) := by
  cases target with
  | none =>
    obtain ⟨t, ht, hdraw⟩ := gatedRead_none_returnsDraw s sp
    exact ⟨t, ht, nofun, fun _ => hdraw⟩
  | some off =>
    refine ⟨_, rfl, fun _ hoff => ?_, nofun⟩
    cases hoff
    exact ⟨rfl, rfl, s.answer_memRead _, rfl, rfl, rfl, rfl⟩

theorem memWrite_storesByteAt (s : State) (sp : Space) (off : Nat) (x : Byte) :
    StoresByteAt sp off x s ((s.memWrite sp off x).answer .void) := by
  refine ⟨fun hwf => ?_, fun sp' a hne => ?_, by simp [SameRest], by simp, by simp, rfl⟩
  · rw [State.answer_memRead, State.memRead_memWrite_same hwf]
  · rw [State.answer_memRead, State.memRead_memWrite_other hne]

theorem gatedWrite_answers (s : State) (sp : Space) (target : Option Nat) (x : Byte) :
    ∃ t, gatedWrite s sp target x = .next t ∧
      (∀ off, target = some off → StoresByteAt sp off x s t) ∧ (target = none → Dropped s t) := by
  cases target with
  | none =>
    obtain ⟨t, ht, hdropped⟩ := gatedWrite_none_dropped s sp x
    exact ⟨t, ht, nofun, fun _ => hdropped⟩
  | some off =>
    refine ⟨_, rfl, fun _ hoff => ?_, nofun⟩
    cases hoff
    exact memWrite_storesByteAt s sp off x

/-! The targets of the PRG and CHR windows (R55 to R59). -/

/-- An entry with a page has the permission of its store's windows. -/
theorem entryTarget_of_page {n p : Nat} {s : Int} {perm : Perm} (size o : Nat)
    (hpage : (entryOf s n perm).page = some p) : entryTarget (entryOf s n perm) size o = some (perm, p * size + o) := by
  have hn : 0 < n := (Nat.zero_le p).trans_lt (entryOf_page_lt hpage)
  rw [entryOf_pages s perm hn] at hpage ⊢
  rw [entryTarget, hpage]

/-- An entry of no pages has no target, and every other target has the permission of its store's windows. -/
theorem entryTarget_some {n size o off : Nat} {s : Int} {perm q : Perm}
    (h : entryTarget (entryOf s n perm) size o = some (q, off)) : n ≠ 0 ∧ q = perm := by
  rcases Nat.eq_zero_or_pos n with rfl | hn
  · cases h
  · rw [entryOf_pages s perm hn] at h
    cases h
    exact ⟨hn.ne', rfl⟩

theorem prgTarget_of_page {c : Config} {r : Regs} {a o p : Nat} {k : Fin 4} (ha : a = 0x8000 + k.val * 0x2000 + o)
    (ho : o < 0x2000) (hpage : (prgEntry c r k).page = some p) : prgTarget c r a = some (.r, p * 0x2000 + o) :=
  (prgTarget_window c r ha ho).trans (entryTarget_of_page _ _ hpage)

theorem prgTarget_of_no_pages {c : Config} (r : Regs) (a : Nat) (hn : c.prgPages = 0) : prgTarget c r a = none := by
  rw [prgTarget, prgEntry, hn, entryOf_no_pages]
  exact ite_self none

/-- Settles O29: the window's entry is read only, and without pages or outside the windows there is no target. -/
theorem prgrdReturnsWindowByte : Obligations.PrgrdReturnsWindowByte := by
  unfold Obligations.PrgrdReturnsWindowByte
  intro s a
  obtain ⟨t, ht, hbyte, hdraw⟩ := gatedRead_answers s .prg (readable (prgTarget s.cfg s.regs a))
  refine ⟨t, ht, fun k o p ha ho hpage => hbyte _ ?_, fun hdenied => hdraw ?_⟩
  · rw [prgTarget_of_page ha ho hpage]
    rfl
  · have hnone : prgTarget s.cfg s.regs a = none :=
      hdenied.elim (prgTarget_of_no_pages s.regs a) (prgTarget_eq_none s.regs)
    rw [hnone]
    rfl

/-- In-window offset o of CHR window k (20_memory.md R52, R59). -/
theorem chrTarget_window {v o : Nat} {k : Fin 8} (c : Config) (r : Regs) (hv : v = k.val * 0x400 + o)
    (ho : o < 0x400) : chrTarget c r v = entryTarget (chrEntry c r k) 0x400 o := by
  have hin : inChr v = true := inChr_iff.2 (by omega)
  have hwindow : chrWindow v = k := Fin.ext (by simp only [chrWindow, chrBase, chrPage, Fin.ofNat]; omega)
  have hoffset : chrOffset v = o := by simp only [chrOffset, chrBase, chrPage]; omega
  rw [chrTarget, if_pos hin, hwindow, hoffset, chrPage]

theorem chrTarget_of_page {c : Config} {r : Regs} {v o p : Nat} {k : Fin 8} (hv : v = k.val * 0x400 + o)
    (ho : o < 0x400) (hpage : (chrEntry c r k).page = some p) : chrTarget c r v = some (c.chrPerm, p * 0x400 + o) :=
  (chrTarget_window c r hv ho).trans (entryTarget_of_page _ _ hpage)

theorem chrTarget_some {c : Config} {r : Regs} {v off : Nat} {q : Perm} (h : chrTarget c r v = some (q, off)) :
    c.chrPages ≠ 0 ∧ v < 0x2000 ∧ q = c.chrPerm := by
  unfold chrTarget at h
  split at h
  case isTrue hin =>
    obtain ⟨hn, hperm⟩ := entryTarget_some h
    exact ⟨hn, inChr_iff_lt.1 hin, hperm⟩
  case isFalse => cases h

/-- A target that permits an access, reading or writing, excludes the three ways that access is denied. -/
theorem chrTarget_not_denied {c : Config} {r : Regs} {v off : Nat} {q : Perm} {can : Perm → Bool}
    (htarget : chrTarget c r v = some (q, off)) (hcan : can q = true) :
    ¬ (c.chrPages = 0 ∨ can c.chrPerm = false ∨ 0x2000 ≤ v) := by
  obtain ⟨hpages, hlt, rfl⟩ := chrTarget_some htarget
  rintro (hno | hdenied | hout)
  · exact hpages hno
  · exact Bool.false_ne_true (hdenied.symm.trans hcan)
  · omega

theorem readable_chrTarget_eq_none {c : Config} {v : Nat} (r : Regs)
    (hdenied : c.chrPages = 0 ∨ canRead c.chrPerm = false ∨ 0x2000 ≤ v) : readable (chrTarget c r v) = none := by
  refine Option.eq_none_iff_forall_ne_some.2 fun off hoff => ?_
  obtain ⟨q, htarget, hread⟩ := readable_some hoff
  exact chrTarget_not_denied htarget hread hdenied

theorem writable_chrTarget_eq_none {c : Config} {v : Nat} (r : Regs)
    (hdenied : c.chrPages = 0 ∨ canWrite c.chrPerm = false ∨ 0x2000 ≤ v) : writable (chrTarget c r v) = none := by
  refine Option.eq_none_iff_forall_ne_some.2 fun off hoff => ?_
  obtain ⟨q, htarget, hwrite⟩ := writable_some hoff
  exact chrTarget_not_denied htarget hwrite hdenied

/-- Settles O30: every CHR target has the permission cfg.chr_perm. -/
theorem chrrdReturnsWindowByte : Obligations.ChrrdReturnsWindowByte := by
  unfold Obligations.ChrrdReturnsWindowByte
  intro s v
  obtain ⟨t, ht, hbyte, hdraw⟩ := gatedRead_answers s .chr (readable (chrTarget s.cfg s.regs v))
  refine ⟨t, ht, fun k o p hv ho hread hpage => hbyte _ ?_,
    fun hdenied => hdraw (readable_chrTarget_eq_none _ hdenied)⟩
  rw [chrTarget_of_page hv ho hpage]
  exact if_pos hread

/-- Settles O31, by the same targets. -/
theorem chrwrStoresOrDrops : Obligations.ChrwrStoresOrDrops := by
  unfold Obligations.ChrwrStoresOrDrops
  intro s v x
  obtain ⟨t, ht, hstores, hdropped⟩ := gatedWrite_answers s .chr (writable (chrTarget s.cfg s.regs v)) x
  refine ⟨t, ht, hstores, hdropped, fun k o p hv ho hwrite hpage => ?_, writable_chrTarget_eq_none s.regs⟩
  rw [chrTarget_of_page hv ho hpage]
  exact if_pos hwrite

/-! The low memory window (43_memory_access.md R203): in-window offset o on an MMC3, a half of the map on an MMC6. -/

/-- The two ways a read is denied exclude the way it is allowed. -/
theorem not_open_of_closed {size : Nat} {bit : Bool} (h : size = 0 ∨ bit = false) : ¬ (size ≠ 0 ∧ bit = true) := by
  rintro ⟨hsize, rfl⟩
  exact h.elim hsize nofun

theorem inLow_offset {o : Nat} (ho : o < 0x2000) : inLow (0x6000 + o) = true := inLow_iff.2 (by omega)

section LowMmc3
variable {c : Config} {o : Nat} (r : Regs) (hv : c.variant = .mmc3) (ho : o < 0x2000)
include hv ho

theorem lowTarget_mmc3 : lowTarget c r (0x6000 + o) = some (lowPerm c r, o % c.wramSize) := by
  rw [lowTarget, if_pos (inLow_offset ho), lowLookup, hv, lowBase, Nat.add_sub_cancel_left]

theorem readable_lowTarget_mmc3 : readable (lowTarget c r (0x6000 + o)) =
    if c.wramSize ≠ 0 ∧ r.wramEn = true then some (o % c.wramSize) else none := by
  rw [lowTarget_mmc3 r hv ho, readable, lowPerm_eq]
  split
  · cases r.wramWp <;> rfl
  · rfl

theorem writable_lowTarget_mmc3 : writable (lowTarget c r (0x6000 + o)) =
    if decide (c.wramSize ≠ 0) && r.wramEn && !r.wramWp then some (o % c.wramSize) else none := by
  rw [lowTarget_mmc3 r hv ho, writable, lowPerm_eq]
  by_cases hopen : c.wramSize ≠ 0 ∧ r.wramEn = true
  · rw [if_pos hopen, decide_eq_true hopen.1, hopen.2]
    cases r.wramWp <;> rfl
  · have hclosed : (decide (c.wramSize ≠ 0) && r.wramEn) = false := by simpa using hopen
    rw [if_neg hopen, hclosed]
    rfl

end LowMmc3

/-- Settles O32: the permission can read exactly when there is a store and it is enabled. -/
theorem wramrdMmc3 : Obligations.WramrdMmc3 := by
  unfold Obligations.WramrdMmc3
  intro s o hv ho
  obtain ⟨t, ht, hbyte, hdraw⟩ := gatedRead_answers s .wram (readable (lowTarget s.cfg s.regs (0x6000 + o)))
  rw [readable_lowTarget_mmc3 s.regs hv ho] at hbyte hdraw
  exact ⟨t, ht, fun hopen => hbyte _ (if_pos hopen), fun hclosed => hdraw (if_neg (not_open_of_closed hclosed))⟩

/-- Settles O34: the permission can write exactly when it can read and the store is not protected. -/
theorem wramwrMmc3 : Obligations.WramwrMmc3 := by
  unfold Obligations.WramwrMmc3
  intro s o x hv ho
  obtain ⟨t, ht, hstores, hdropped⟩ := gatedWrite_answers s .wram (writable (lowTarget s.cfg s.regs (0x6000 + o))) x
  have hwrite := writable_lowTarget_mmc3 s.regs hv ho
  refine ⟨t, ht, fun off hoff => ⟨?_, hstores off hoff⟩, hdropped, ?_⟩
  · rw [hwrite, Option.ite_none_right_eq_some] at hoff
    exact (Option.some.inj hoff.2).symm
  · rw [hwrite, Bool.eq_iff_iff, Option.isSome_ite]

/-- The read bit and the write bit of a half (10_state.md R29). -/
def Regs.halfRead (r : Regs) : Half → Bool
  | .h0 => r.h0r
  | .h1 => r.h1r

def Regs.halfWrite (r : Regs) : Half → Bool
  | .h0 => r.h0w
  | .h1 => r.h1w

theorem lowPermHalf_eq (c : Config) (r : Regs) (h : Half) : lowPermHalf c r h =
    if c.wramSize = 0 then .none else permOf (r.halfRead h) (r.halfWrite h) := by cases h <;> rfl

section LowMmc6
variable {c : Config} {a off : Nat} {h : Half} (r : Regs) (hv : c.variant = .mmc6) (ha : inLow a = true)
  (hmap : lowHalfMap c a = some (h, off))
include hv ha hmap

theorem readable_lowTarget_of_half : readable (lowTarget c r a) =
    if c.wramSize ≠ 0 ∧ r.halfRead h = true then some off else none := by
  rw [lowTarget_of_half r hv ha hmap, readable, lowPermHalf_eq]
  by_cases hsize : c.wramSize = 0
  · simp [hsize, canRead]
  · simp [hsize]

theorem writable_lowTarget_of_half : writable (lowTarget c r a) =
    if c.wramSize ≠ 0 ∧ r.halfWrite h = true then some off else none := by
  rw [lowTarget_of_half r hv ha hmap, writable, lowPermHalf_eq]
  by_cases hsize : c.wramSize = 0
  · simp [hsize, canWrite]
  · simp [hsize]

end LowMmc6

/-- Settles O33: outside the map nothing can be read, and a half by its own read bit. -/
theorem wramrdMmc6 : Obligations.WramrdMmc6 := by
  unfold Obligations.WramrdMmc6
  intro s o hv ho
  obtain ⟨t, ht, hbyte, hdraw⟩ := gatedRead_answers s .wram (readable (lowTarget s.cfg s.regs (0x6000 + o)))
  refine ⟨t, ht, fun hout => hdraw (lowTarget_outside hv (inLow_offset ho) hout).1, fun h off hmap => ?_⟩
  rw [readable_lowTarget_of_half s.regs hv (inLow_offset ho) hmap] at hbyte hdraw
  exact ⟨fun hopen => hbyte off (if_pos hopen), fun hclosed => hdraw (if_neg (not_open_of_closed hclosed))⟩

/-- Settles O35: outside the map nothing can be written, and a half by its own write bit. -/
theorem wramwrMmc6 : Obligations.WramwrMmc6 := by
  unfold Obligations.WramwrMmc6
  intro s o x hv ho
  obtain ⟨t, ht, hstores, hdropped⟩ := gatedWrite_answers s .wram (writable (lowTarget s.cfg s.regs (0x6000 + o))) x
  exact ⟨t, ht, hstores, hdropped, fun hout => (lowTarget_outside hv (inLow_offset ho) hout).2,
    fun _ _ hmap => writable_lowTarget_of_half s.regs hv (inLow_offset ho) hmap⟩

end Sys2Proof.Machine

namespace Sys2Proof.Machine

open Claims

/-! The layout of the snapshot blob (44_system_ops.md R223, R224). -/

/-- The image of a single flag: byte 9 (mirr) and byte 15 (ew_last). -/
theorem flagImage_fields (b : Bool) :
    (packBits false false false false false false false b).getLsbD 0 = b ∧
      packBits false false false false false false false b &&& 0xFE#8 = 0#8 := by
  revert b; decide

/-- The image of the MMC3 WRAMCTL bits, byte 10. -/
theorem wramctlMmc3Image_fields (en wp : Bool) :
    (packBits en wp false false false false false false).getLsbD 7 = en ∧
      (packBits en wp false false false false false false).getLsbD 6 = wp ∧
      packBits en wp false false false false false false &&& 0x3F#8 = 0#8 := by
  revert en wp; decide

/-- The image of the MMC6 WRAMCTL bits, byte 11. -/
theorem wramctlMmc6Image_fields (r1 w1 r0 w0 : Bool) :
    (packBits r1 w1 r0 w0 false false false false).getLsbD 7 = r1 ∧
      (packBits r1 w1 r0 w0 false false false false).getLsbD 6 = w1 ∧
      (packBits r1 w1 r0 w0 false false false false).getLsbD 5 = r0 ∧
      (packBits r1 w1 r0 w0 false false false false).getLsbD 4 = w0 ∧
      packBits r1 w1 r0 w0 false false false false &&& 0x0F#8 = 0#8 := by
  revert r1 w1 r0 w0; decide

/-- The image of the interrupt flags, byte 14. -/
theorem irqImage_fields (reload en : Bool) :
    (packBits false false false false false false reload en).getLsbD 1 = reload ∧
      (packBits false false false false false false reload en).getLsbD 0 = en ∧
      packBits false false false false false false reload en &&& 0xFC#8 = 0#8 := by
  revert reload en; decide

/-- The bits that the layout shows as 0, by byte and mask, are 0 in every encoding. -/
theorem encodeBlob_and_zeroMask {r : Regs} {k : Nat} {mask b : Byte}
    (hmask : (k, mask) ∈ [(8, 0x38#8), (9, 0xFE#8), (10, 0x3F#8), (11, 0x0F#8), (14, 0xFC#8), (15, 0xFE#8)])
    (hb : (encodeBlob r)[k]? = some b) : b &&& mask = 0#8 := by
  obtain ⟨-, -, -, hselect⟩ := selectImage_fields r
  obtain ⟨-, -, hmmc3⟩ := wramctlMmc3Image_fields r.wramEn r.wramWp
  obtain ⟨-, -, -, -, hmmc6⟩ := wramctlMmc6Image_fields r.h1r r.h1w r.h0r r.h0w
  obtain ⟨-, -, hirq⟩ := irqImage_fields r.irqReload r.irqEn
  simp only [List.mem_cons, Prod.mk.injEq, List.not_mem_nil, or_false] at hmask
  obtain ⟨rfl, rfl⟩ | ⟨rfl, rfl⟩ | ⟨rfl, rfl⟩ | ⟨rfl, rfl⟩ | ⟨rfl, rfl⟩ | ⟨rfl, rfl⟩ := hmask <;> cases hb
  · exact hselect
  · exact (flagImage_fields r.mirr).2
  · exact hmmc3
  · exact hmmc6
  · exact hirq
  · exact (flagImage_fields r.ewLast).2

/-- Bytes 0 to 7 are the bank registers. -/
theorem encodeBlob_bank (r : Regs) (k : Fin 8) : (encodeBlob r)[k.val]? = some r.bank[k] := by
  fin_cases k <;> rfl

/-- A stamp below 2^32 needs no further byte. -/
theorem encodeBlob_length {r : Regs} (hstamp : r.ewStamp < 2 ^ 32) : (encodeBlob r).length = 20 := by
  have hfits : r.ewStamp / 4294967296 = 0 := by omega
  simp [encodeBlob, stampBytes, hfits, leTail]

/-- Bytes 16 to 19 are a stamp below 2^32, least significant byte first. -/
theorem encodeBlob_stamp {r : Regs} (hstamp : r.ewStamp < 2 ^ 32) : ∃ b0 b1 b2 b3 : Byte,
    (encodeBlob r)[16]? = some b0 ∧ (encodeBlob r)[17]? = some b1 ∧ (encodeBlob r)[18]? = some b2 ∧
      (encodeBlob r)[19]? = some b3 ∧
      r.ewStamp = b0.toNat + 256 * b1.toNat + 65536 * b2.toNat + 16777216 * b3.toNat := by
  refine ⟨_, _, _, _, rfl, rfl, rfl, rfl, ?_⟩
  simp only [BitVec.toNat_ofNat]
  omega

/-- decode takes from an encoding the fields that were encoded (R227). -/
theorem blobFields_encodeBlob (r : Regs) : blobFields (encodeBlob r) = r := by
  have hbank : (blobFields (encodeBlob r)).bank = r.bank := by
    ext k hk
    interval_cases k <;> rfl
  obtain ⟨hsel, hchr, hprg, -⟩ := selectImage_fields r
  obtain ⟨hen, hwp, -⟩ := wramctlMmc3Image_fields r.wramEn r.wramWp
  obtain ⟨h1r, h1w, h0r, h0w, -⟩ := wramctlMmc6Image_fields r.h1r r.h1w r.h0r r.h0w
  obtain ⟨hreload, hirqEn, -⟩ := irqImage_fields r.irqReload r.irqEn
  have hmirr := (flagImage_fields r.mirr).1
  have hlast := (flagImage_fields r.ewLast).1
  have hstamp := leNat_stampBytes r.ewStamp
  cases r
  exact (Regs.mk.injEq ..).mpr ⟨hbank, hsel, hprg, hchr, hmirr, hen, hwp, h0r, h0w, h1r, h1w, rfl, rfl, hreload, hirqEn,
    hlast, hstamp⟩

/-- Settles O55: an encoding holds its fields, and decode checks the rest. -/
theorem decodeEncodeBlob : Obligations.DecodeEncodeBlob := by
  unfold Obligations.DecodeEncodeBlob
  intro c r blob
  constructor
  · intro h
    exact (decodeBlob_some h).symm
  · rintro ⟨rfl, hvalid⟩
    simp [decodeBlob, blobFields_encodeBlob, hvalid]

/-- Settles O54, byte by byte. -/
theorem snapshotLayout : Obligations.SnapshotLayout := by
  unfold Obligations.SnapshotLayout
  intro s hstamp
  exact ⟨encodeBlob s.regs, rfl, encodeBlob_length hstamp, encodeBlob_bank s.regs, ⟨_, rfl, selectImage_fields s.regs⟩,
    ⟨_, rfl, flagImage_fields _⟩, ⟨_, rfl, wramctlMmc3Image_fields _ _⟩, ⟨_, rfl, wramctlMmc6Image_fields _ _ _ _⟩,
    rfl, rfl, ⟨_, rfl, irqImage_fields _ _⟩, ⟨_, rfl, flagImage_fields _⟩, encodeBlob_stamp hstamp⟩

/-! RESTORE, by what the blob decodes to (R225, R226). -/

/-- RESTORE of the encoding of valid registers sets them. -/
theorem exec_restore_encodeBlob {s : State} {r : Regs} (hvalid : r.valid s.cfg = true) :
    exec (.restore (encodeBlob r)) s = .next ((s.setRegs r).answer .void) := by
  have hdecode : decodeBlob s.cfg (encodeBlob r) = some r := (decodeEncodeBlob _ _ _).2 ⟨rfl, hvalid⟩
  simp [exec, execRestore, hdecode]

/-- RESTORE of a blob that encodes no valid registers tells the failure. -/
theorem exec_restore_of_no_encoding {s : State} {blob : List Byte}
    (hblob : ∀ r : Regs, r.valid s.cfg = true → encodeBlob r ≠ blob) :
    exec (.restore blob) s = .next (s.answer (.restoreFailure blob)) := by
  have hdecode : decodeBlob s.cfg blob = none := Option.eq_none_iff_forall_ne_some.2 fun r hr =>
    hblob r (decodeBlob_some hr).1 (decodeBlob_some hr).2
  simp only [exec, execRestore, hdecode]
  rfl

/-- Settles O56: the blob is the encoding of valid registers, or of none. -/
theorem restoreSetsFieldsOrFails : Obligations.RestoreSetsFieldsOrFails := by
  unfold Obligations.RestoreSetsFieldsOrFails
  intro s blob
  constructor
  · rintro r hvalid rfl
    exact exec_restore_encodeBlob hvalid
  · exact exec_restore_of_no_encoding

/-- Settles O57: a malformed blob is not the encoding of valid registers, whose stamp lies inside the frame and so in four
bytes. -/
theorem restoreRefusesMalformedBlobs : Obligations.RestoreRefusesMalformedBlobs := by
  unfold Obligations.RestoreRefusesMalformedBlobs
  intro s blob f hframe hf hmalformed
  apply exec_restore_of_no_encoding
  rintro r hvalid rfl
  obtain ⟨heven0, heven1, hinFrame⟩ := Regs.valid_iff.1 hvalid
  have hlt : r.ewStamp < f := by simpa [Config.inFrame, hframe] using hinFrame
  have hstamp : r.ewStamp < 2 ^ 32 := by omega
  obtain hlength | ⟨b, hb, hodd⟩ | ⟨k, mask, b, hmask, hb, hset⟩ | ⟨b0, b1, b2, b3, h0, h1, h2, h3, hout⟩ := hmalformed
  case inl => exact hlength (encodeBlob_length hstamp)
  case inr.inl =>
    obtain hb | hb := hb <;> cases hb
    · exact Bool.false_ne_true (heven0.symm.trans hodd)
    · exact Bool.false_ne_true (heven1.symm.trans hodd)
  case inr.inr.inl => exact hset (encodeBlob_and_zeroMask hmask hb)
  case inr.inr.inr =>
    obtain ⟨c0, c1, c2, c3, g0, g1, g2, g3, hsum⟩ := encodeBlob_stamp hstamp
    cases h0.symm.trans g0
    cases h1.symm.trans g1
    cases h2.symm.trans g2
    cases h3.symm.trans g3
    omega

/-! The returned value is written by every operation and read by none (log 5). -/

section Answer
variable (s : State) (x : Returned)

@[simp] theorem State.setRegs_answer (r : Regs) : (s.answer x).setRegs r = (s.setRegs r).answer x := rfl
@[simp] theorem State.assertIrq_answer : (s.answer x).assertIrq = s.assertIrq.answer x := rfl

@[simp] theorem clockIrq_answer : clockIrq (s.answer x) = (clockIrq s).answer x := by
  dsimp only [clockIrq, State.answer_cfg, State.answer_regs, State.setRegs_answer, State.assertIrq_answer]
  by_cases hfires : clockFires s.cfg s.regs = true <;> simp [hfires]

theorem execNotify_answer (a n : Nat) : execNotify a n (s.answer x) = execNotify a n s := by
  simp only [execNotify_eq, State.answer_cfg, State.answer_regs, State.setRegs_answer, clockIrq_answer]
  split <;> rfl

theorem gatedRead_answer (sp : Space) (target : Option Nat) : gatedRead (s.answer x) sp target = gatedRead s sp target := by
  cases target with
  | none => rfl
  | some off => cases sp <;> rfl

theorem gatedWrite_answer (sp : Space) (target : Option Nat) (v : Byte) :
    gatedWrite (s.answer x) sp target v = gatedWrite s sp target v := by
  cases target with
  | none => rfl
  | some off => cases sp <;> rfl

theorem execRestore_answer (blob : List Byte) : execRestore blob (s.answer x) = execRestore blob s := by
  unfold execRestore
  rw [State.answer_cfg]
  cases decodeBlob s.cfg blob <;> rfl

theorem exec_answer (i : Instr) : exec i (s.answer x) = exec i s := by
  cases i with
  | select | data | mirror | wramctlMmc3 | wramctlMmc6 | irqlatch | irqreload | irqdis | irqen => rfl
  | reset | snapshot | query => rfl
  | notify a n => exact execNotify_answer s x a n
  | wramrd | prgrd | chrrd => exact gatedRead_answer s x _ _
  | wramwr a v | chrwr a v => exact gatedWrite_answer s x _ _ v
  | restore blob => exact execRestore_answer s x blob

theorem step_answer : step (s.answer x) = step s := by
  cases hin : s.input with
  | nil => rw [step_of_input_nil hin, step_of_input_nil (s := s.answer x) hin]
  | cons e rest =>
    cases hd : decode s.cfg.variant e with
    | ok i =>
      rw [step_of_decode_ok hin hd, step_of_decode_ok (s := s.answer x) hin hd]
      exact exec_answer (s.consume rest) x i
    | error y =>
      rw [step_of_decode_error hin hd, step_of_decode_error (s := s.answer x) hin hd]
      rfl

end Answer

/-- A run looks at its first state through its first step alone. -/
theorem core_run_congr (M : Host.Core) {s t : M.State} (h : M.step s = M.step t) (k : Nat) :
    M.run (k + 1) s = M.run (k + 1) t := by
  simp only [Host.Core.run, h]

/-- What the operation before a nonempty run returned does not matter to it. -/
theorem run_answer (s : State) (x : Returned) {n : Nat} (hn : n ≠ 0) : run n (s.answer x) = run n s := by
  obtain ⟨k, rfl⟩ := Nat.exists_eq_succ_of_ne_zero hn
  exact core_run_congr Sys2Proof.core (step_answer s x) k

/-- On valid registers, a SNAPSHOT and a RESTORE of its blob only take themselves from the input and return nothing. -/
theorem run_snapshot_restore {s : State} (es : List Event) (hvalid : s.regs.valid s.cfg = true) (n : Nat) :
    run (n + 2) (s.consume (.sys .snapshot :: .sys (.restore (encodeBlob s.regs)) :: es)) =
      run n ((s.consume es).answer .void) := by
  have hsnapshot : step (s.consume (.sys .snapshot :: .sys (.restore (encodeBlob s.regs)) :: es)) =
      .next ((s.consume (.sys (.restore (encodeBlob s.regs)) :: es)).answer (.blob (encodeBlob s.regs))) :=
    (step_of_decode_ok rfl rfl).trans rfl
  have hrestore : step ((s.consume (.sys (.restore (encodeBlob s.regs)) :: es)).answer (.blob (encodeBlob s.regs))) =
      .next ((s.consume es).answer .void) :=
    (step_of_decode_ok rfl rfl).trans (exec_restore_encodeBlob hvalid)
  rw [run_next hsnapshot, run_next hrestore]

/-- Settles O58: after the RESTORE only the returned value may differ, and no run that takes a step reads it. -/
theorem snapshotRoundTrip : Obligations.SnapshotRoundTrip := by
  unfold Obligations.SnapshotRoundTrip
  intro s es hvalid hes
  have hlength : es.length ≠ 0 := mt List.length_eq_zero_iff.1 hes
  rw [Nat.add_comm]
  exact (run_snapshot_restore es hvalid es.length).trans (run_answer (s.consume es) .void hlength)

/-! QUERY (R228). -/

/-- The low-window permission items, of which a cartridge reports those of its variant. -/
def isLowPermItem : QueryItem → Bool
  | .lowPerm | .lowPermHalf _ => true
  | _ => false

/-- Every item but a low-window permission is reported on both variants. -/
theorem mem_queryItems_of_not_isLowPermItem {i : QueryItem} (v : Variant) (hi : isLowPermItem i = false) :
    i ∈ queryItems v := by
  cases i with
  | lowPerm | lowPermHalf => cases hi
  | _ => simp [queryItems, registerItems]

theorem mem_queryItems_of_mem_lowPermItems {i : QueryItem} {v : Variant} (hi : i ∈ lowPermItems v) : i ∈ queryItems v :=
  List.mem_append_right _ hi

theorem queryItems_nodup (v : Variant) : (queryItems v).Nodup := by
  cases v <;> decide

/-- The list of QUERY on a state. -/
def queryRows (s : State) : List QueryRow := (queryItems s.cfg.variant).map (queryRow s)

theorem exec_query (s : State) : exec .query s = .next (s.answer (.table (queryRows s))) := rfl

theorem queryRows_reports {s : State} {i : QueryItem} (hi : i ∈ queryItems s.cfg.variant) :
    Reports (queryRows s) i (queryValue s i) :=
  ⟨queryRow s i, List.mem_map_of_mem hi, rfl, rfl⟩

theorem queryRows_names (s : State) : (queryRows s).map QueryRow.name = queryItems s.cfg.variant := by
  rw [queryRows, List.map_map]
  exact List.map_id _

/-- Settles O59: each item of the set is in the list once, with its value. -/
theorem queryReportsEveryValue : Obligations.QueryReportsEveryValue := by
  unfold Obligations.QueryReportsEveryValue
  intro s
  have report (i : QueryItem) (hi : isLowPermItem i = false) : Reports (queryRows s) i (queryValue s i) :=
    queryRows_reports (mem_queryItems_of_not_isLowPermItem _ hi)
  have reportLow (i : QueryItem) (hi : i ∈ lowPermItems s.cfg.variant) : Reports (queryRows s) i (queryValue s i) :=
    queryRows_reports (mem_queryItems_of_mem_lowPermItems hi)
  refine ⟨queryRows s, exec_query s, fun k => report (.bank k) rfl, report .sel rfl, report .prgMode rfl, report .chrMode rfl,
    report .mirr rfl, report .wramEn rfl, report .wramWp rfl, report .h0r rfl, report .h0w rfl, report .h1r rfl,
    report .h1w rfl, report .irqCount rfl, report .irqLatch rfl, report .irqEn rfl, report .irqReload rfl,
    report .ewLast rfl, report .ewStamp rfl, report .irqLine rfl, report .mirroring rfl,
    fun k => report (.chrPage k) rfl, fun k => report (.prgPage k) rfl, ?mmc3, ?mmc6, ?once⟩
  case mmc3 =>
    intro hv
    exact reportLow .lowPerm (by simp [hv, lowPermItems])
  case mmc6 =>
    intro hv h
    exact reportLow (.lowPermHalf h) (by cases h <;> simp [hv, lowPermItems])
  case once =>
    rw [queryRows_names]
    exact queryItems_nodup _

/-! RESET (R220, 10_state.md R38). -/

theorem powerOnStamp_of_frame {c : Config} {f : Nat} (hf : c.frameCycles = some f) :
    powerOnStamp c = c.powerOn.ewStamp.toNat % f := by
  simp only [powerOnStamp, hf, emod_nat]

theorem powerOnStamp_of_no_frame {c : Config} (hf : c.frameCycles = none) : powerOnStamp c = c.powerOn.ewStamp.toNat := by
  simp only [powerOnStamp, hf]

/-- Settles O10: the fields are those of `powerOnRegs`, the stamp by the frame. -/
theorem resetTakesPowerOnBytes : Obligations.ResetTakesPowerOnBytes := by
  unfold Obligations.ResetTakesPowerOnBytes
  intro s
  refine ⟨(s.setRegs (powerOnRegs s.cfg)).clearIrq.answer .void, rfl, ?fields, rfl, ?bytes, ⟨rfl, rfl, rfl⟩, rfl⟩
  case fields =>
    exact ⟨rfl, rfl, rfl, rfl, rfl, rfl, rfl, rfl, rfl, rfl, rfl, rfl, rfl, rfl, rfl, rfl,
      fun _ hf _ => powerOnStamp_of_frame hf, powerOnStamp_of_no_frame⟩
  case bytes =>
    intro sp a
    rw [State.answer_memRead, State.clearIrq_memRead, State.setRegs_memRead]

end Sys2Proof.Machine

namespace Sys2Proof.Machine

open Claims

/-! What RESET makes certain (70_reset_and_hazards.md R273). -/

/-- The last PRG window is the last page in both modes (41_register_writes.md R161). -/
theorem emod_prgSel_window3 {n : Nat} (r : Regs) (hn : 0 < n) : emod (prgSel r 3) n = n - 1 := by
  have hsel : prgSel r 3 = -1 := by
    unfold prgSel
    cases r.prgMode <;> rfl
  rw [hsel, emod_neg_one hn]

/-- The window that the mode pins is the second to last page (41_register_writes.md R161). -/
theorem emod_prgSel_pinned {n : Nat} (r : Regs) (hn : 0 < n) : emod (prgSel r (if r.prgMode then 0 else 2)) n = n - 2 := by
  split
  case isTrue hmode => rw [emod_prgSel_window0 r hn, if_pos hmode]
  case isFalse hmode => rw [emod_prgSel_window2 r hn, if_neg hmode]

/-- Settles O11: the banks' bits are cleared, and the two pages are pinned whatever the registers hold. -/
theorem resetCertainties : Obligations.ResetCertainties := by
  unfold Obligations.ResetCertainties
  intro s t hreset
  cases hreset
  refine ⟨rfl, clearBit0_bit0 _, clearBit0_bit0 _, fun n hpages hn => ?last, fun n hpages hn => ?pinned⟩
  case last =>
    subst hpages
    exact (prgEntry_page _ 3 hn).trans (congrArg some (emod_prgSel_window3 _ hn))
  case pinned =>
    subst hpages
    have hpos : 0 < s.cfg.prgPages := Nat.zero_lt_of_lt hn
    exact (prgEntry_page _ _ hpos).trans (congrArg some (emod_prgSel_pinned _ hpos))

/-! Runs of issued operations, whatever the host has issued after them. -/

/-- Running the operations `es` takes `s` to `t`, with what the host has issued after them still to come. -/
def RunsTo (es : List Event) (s t : State) : Prop :=
  ∀ (n : Nat) (rest : List Event), run (n + es.length) (s.consume (es ++ rest)) = run n (t.consume rest)

theorem RunsTo.nil (s : State) : RunsTo [] s s := fun _ _ => rfl

theorem RunsTo.append {es fs : List Event} {s u t : State} (hes : RunsTo es s u) (hfs : RunsTo fs u t) :
    RunsTo (es ++ fs) s t := by
  intro n rest
  rw [List.length_append, Nat.add_comm es.length, ← Nat.add_assoc, List.append_assoc, hes, hfs]

/-- Groups of operations that each take effect on some data of the state have their effects one after the other. -/
theorem RunsTo.flatMap {α β : Type} {events : α → List Event} {effect : β → α → β} {state : β → State}
    (h : ∀ b a, RunsTo (events a) (state b) (state (effect b a))) (l : List α) (b : β) :
    RunsTo (l.flatMap events) (state b) (state (l.foldl effect b)) := by
  induction l generalizing b with
  | nil => exact .nil _
  | cons a l ih => exact (h b a).append (ih (effect b a))

/-- Issued with nothing after them, the operations end the run in `t` with an empty input. -/
theorem RunsTo.run_eq {es : List Event} {s t : State} (h : RunsTo es s t) :
    run es.length { s with input := es } = .next (t.consume []) := by
  simpa [State.consume] using h 0 []

/-- One operation, as the encoding of an instruction of the cartridge. -/
theorem runsTo_encode {i : Instr} {s t : State} (hwf : WellFormed s.cfg i = true)
    (hexec : ∀ rest, exec i (s.consume rest) = .next (t.consume rest)) : RunsTo [encode i] s t := by
  intro n rest
  have hstep : step (s.consume (encode i :: rest)) = .next (t.consume rest) :=
    (step_of_decode_ok (s := s.consume (encode i :: rest)) rfl (decodeEncode s.cfg i hwf)).trans (hexec rest)
  exact run_next hstep

/-! The boot order (R279): one bank, the eight of them, the registers after it. -/

/-- A mode byte with the index `k` in its low bits is the SELECT byte of that index and those modes. -/
theorem selectByte_fields {m : Byte} (hm : m &&& 0x3F#8 = 0#8) (k : Fin 8) :
    (m ||| BitVec.ofNat 8 k.val).extractLsb' 0 3 = BitVec.ofFin k ∧
      (m ||| BitVec.ofNat 8 k.val).getLsbD 7 = m.getLsbD 7 ∧ (m ||| BitVec.ofNat 8 k.val).getLsbD 6 = m.getLsbD 6 := by
  have hlow : m.extractLsb' 0 3 = 0#3 := by revert m; decide
  have hindex : (BitVec.ofNat 8 k.val).extractLsb' 0 3 = BitVec.ofFin k ∧
      (BitVec.ofNat 8 k.val).getLsbD 7 = false ∧ (BitVec.ofNat 8 k.val).getLsbD 6 = false := by
    revert k; decide
  obtain ⟨hsel, h7, h6⟩ := hindex
  rw [BitVec.extractLsb'_or, BitVec.getLsbD_or, BitVec.getLsbD_or, hlow, hsel, h7, h6]
  exact ⟨BitVec.zero_or, Bool.or_false _, Bool.or_false _⟩

/-- The state `s` with the registers `r`, the line cleared and nothing returned: what IRQDIS leaves, and what every later
register write keeps but for the registers. -/
def State.quiet (s : State) (r : Regs) : State := (s.setRegs r).clearIrq.answer .void

/-- The registers after a SELECT of the byte `y`. -/
def Regs.select (r : Regs) (y : Byte) : Regs :=
  { r with sel := y.extractLsb' 0 3, chrMode := y.getLsbD 7, prgMode := y.getLsbD 6 }

/-- The registers after a SELECT of the modes `m` and the index `k` and a DATA of that bank's byte. -/
def Regs.loadBank (m : Byte) (banks : Vector Byte 8) (r : Regs) (k : Fin 8) : Regs :=
  { r with
    bank := r.bank.set k (dataByte (BitVec.ofFin k) banks[k])
    sel := BitVec.ofFin k, chrMode := m.getLsbD 7, prgMode := m.getLsbD 6 }

theorem runsTo_bankEvents {m : Byte} (hm : m &&& 0x3F#8 = 0#8) (banks : Vector Byte 8) (s : State) (r : Regs)
    (k : Fin 8) :
    RunsTo (bankEvents (m ||| BitVec.ofNat 8 k.val) banks[k]) (s.quiet r) (s.quiet (r.loadBank m banks k)) := by
  have hselect : RunsTo [encode (.select (m ||| BitVec.ofNat 8 k.val))] (s.quiet r)
      (s.quiet (r.select (m ||| BitVec.ofNat 8 k.val))) := runsTo_encode rfl fun _ => rfl
  obtain ⟨hsel, hchr, hprg⟩ := selectByte_fields hm k
  rw [Regs.select, hsel, hchr, hprg] at hselect
  exact hselect.append (runsTo_encode (i := .data banks[k]) rfl fun _ => rfl)

/-- Setting entries of a vector one after the other gives each of them its value. -/
theorem getElem_foldl_set {α : Type} {n : Nat} (f : Fin n → α) (l : List (Fin n)) (b : Vector α n) (j : Fin n) :
    (l.foldl (fun (v : Vector α n) (k : Fin n) => v.set k (f k)) b)[j] = if j ∈ l then f j else b[j] := by
  induction l generalizing b with
  | nil => simp
  | cons k l ih =>
    rw [List.foldl_cons, ih]
    by_cases hk : k = j
    · subst hk; simp
    · simp [hk, Ne.symm hk, Fin.val_inj]

/-- The banks after the boot order: index by index the byte DATA stores. -/
def bootBanks (banks b : Vector Byte 8) : Vector Byte 8 :=
  (List.finRange 8).foldl (fun (v : Vector Byte 8) (k : Fin 8) => v.set k (dataByte (BitVec.ofFin k) banks[k])) b

theorem getElem_bootBanks (banks b : Vector Byte 8) (k : Fin 8) :
    (bootBanks banks b)[k] = dataByte (BitVec.ofFin k) banks[k] := by
  rw [bootBanks, getElem_foldl_set, if_pos (List.mem_finRange k)]

theorem foldl_loadBank (m : Byte) (banks : Vector Byte 8) (r : Regs) : (List.finRange 8).foldl (Regs.loadBank m banks) r =
    { r with bank := bootBanks banks r.bank, sel := 7#3, chrMode := m.getLsbD 7, prgMode := m.getLsbD 6 } := rfl

/-- The registers after the boot order: WRAMCTL's bits by the variant, and what the other operations write. -/
def bootRegs (v : Variant) (m : Byte) (banks : Vector Byte 8) (mm ww nn : Byte) (r : Regs) : Regs :=
  { wramctlRegs v ww r with
    bank := bootBanks banks r.bank, sel := 7#3, chrMode := m.getLsbD 7, prgMode := m.getLsbD 6
    mirr := mm.getLsbD 0, irqLatch := nn, irqCount := 0#8, irqReload := true, irqEn := true }

/-- The same registers, in the order in which the operations write them. -/
theorem bootRegs_eq (v : Variant) (m : Byte) (banks : Vector Byte 8) (mm ww nn : Byte) (r : Regs) :
    bootRegs v m banks mm ww nn r =
      { wramctlRegs v ww { r with
          irqEn := false, bank := bootBanks banks r.bank, sel := 7#3, chrMode := m.getLsbD 7, prgMode := m.getLsbD 6
          mirr := mm.getLsbD 0 } with
        irqLatch := nn, irqCount := 0#8, irqReload := true, irqEn := true } := by
  cases v <;> rfl

theorem runsTo_wramctl (x : Byte) (s : State) (r : Regs) :
    RunsTo [.write 0xA001#16 x] (s.quiet r) (s.quiet (wramctlRegs s.cfg.variant x r)) := by
  cases hv : s.cfg.variant with
  | mmc3 =>
    exact runsTo_encode (i := .wramctlMmc3 x) (by simp [WellFormed, State.quiet, hv]) fun _ => exec_wramctlMmc3 x hv
  | mmc6 =>
    exact runsTo_encode (i := .wramctlMmc6 x) (by simp [WellFormed, State.quiet, hv]) fun _ => exec_wramctlMmc6 x hv

/-- The boot order ends with the line cleared by its IRQDIS, and with those registers. -/
theorem runsTo_bootEvents {m : Byte} (hm : m &&& 0x3F#8 = 0#8) (banks : Vector Byte 8) (mm ww nn : Byte) (s : State) :
    RunsTo (bootEvents m banks mm ww nn) s (s.quiet (bootRegs s.cfg.variant m banks mm ww nn s.regs)) := by
  have hirqdis : RunsTo [encode (.irqdis 0#8)] s (s.quiet { s.regs with irqEn := false }) :=
    runsTo_encode rfl fun _ => rfl
  have hmirror (r : Regs) : RunsTo [encode (.mirror mm)] (s.quiet r) (s.quiet { r with mirr := mm.getLsbD 0 }) :=
    runsTo_encode rfl fun _ => rfl
  have hirqlatch (r : Regs) : RunsTo [encode (.irqlatch nn)] (s.quiet r) (s.quiet { r with irqLatch := nn }) :=
    runsTo_encode rfl fun _ => rfl
  have hirqreload (r : Regs) : RunsTo [encode (.irqreload 0#8)] (s.quiet r)
      (s.quiet { r with irqCount := 0#8, irqReload := true }) := runsTo_encode rfl fun _ => rfl
  have hirqen (r : Regs) : RunsTo [encode (.irqen 0#8)] (s.quiet r) (s.quiet { r with irqEn := true }) :=
    runsTo_encode rfl fun _ => rfl
  have hbanks := RunsTo.flatMap (runsTo_bankEvents hm banks s) (List.finRange 8) { s.regs with irqEn := false }
  rw [foldl_loadBank] at hbanks
  rw [bootRegs_eq]
  exact (hirqdis.append hbanks).append
    ((hmirror _).append ((runsTo_wramctl ww s _).append ((hirqlatch _).append ((hirqreload _).append (hirqen _)))))

/-- WRAMCTL leaves the edge watcher alone. -/
theorem wramctlRegs_sameWatcher (v : Variant) (x : Byte) (r : Regs) : SameWatcher r (wramctlRegs v x r) := by
  cases v <;> exact ⟨rfl, rfl⟩

/-- Settles O53: the registers are those of `bootRegs`, the banks by the index that DATA stores under. -/
theorem bootDeterminesRegisters : Obligations.BootDeterminesRegisters := by
  unfold Obligations.BootDeterminesRegisters
  intro s m banks mm ww nn hm
  have hbank (k : Fin 8) := getElem_bootBanks banks s.regs.bank k
  refine ⟨_, (runsTo_bootEvents hm banks mm ww nn s).run_eq, rfl, rfl, ?pair0, ?pair1, ?single, rfl, rfl, rfl, rfl,
    ?mmc3, ?mmc6, rfl, rfl, rfl, rfl, wramctlRegs_sameWatcher s.cfg.variant ww s.regs⟩
  case pair0 => exact (hbank 0).trans (dataByte_of_le_one _ (by decide))
  case pair1 => exact (hbank 1).trans (dataByte_of_le_one _ (by decide))
  case single =>
    intro k hk
    exact (hbank k).trans (dataByte_of_two_le _ hk)
  case mmc3 =>
    intro hv
    rw [hv]
    exact ⟨rfl, rfl, rfl, rfl, rfl, rfl⟩
  case mmc6 =>
    intro hv
    rw [hv]
    exact ⟨rfl, rfl, rfl, rfl, rfl, rfl⟩

end Sys2Proof.Machine
